-- ==== Sys2Proof/Word.lean ====
section
/-! DEFINITION. The word types of the block: 32-bit command words and register values, bytes, and
16-bit fields (spec 00 R9). Fields `v[hi:lo]` of a word are read with `BitVec.extractLsb'`. -/

namespace Sys2Proof

/-- A 32-bit command word, GPIO address or register value. -/
abbrev Word := BitVec 32

/-- A byte of a payload, of a pixel or of the data lines. -/
abbrev Byte := BitVec 8

/-- A 16-bit field: a coordinate, an extent or an offset. -/
abbrev Half := BitVec 16

/-- A concatenation `{a, b, ...}` of fields of 32 bits in all, as a word (00 R9). -/
def asWord {w : Nat} (x : BitVec w) (h : w = 32 := by rfl) : Word := x.cast h

end Sys2Proof
end

