-- ==== Sys2Proof/Config.lean ====
section
/-! DEFINITION. The implementation parameters of spec 00 R6, plain data, and the reference instance of
spec 95 section 0. The block has no undefined result, so the model has no free value. -/

namespace Sys2Proof

/-- `PINS_PER_PORT` (00 R6, R8): 32 = separate set and clear registers per 32-pin group,
16 = one combined set/reset register per 16-pin port. -/
inductive PortFamily where
  | pins16
  | pins32
deriving DecidableEq, Repr

/-- The implementation parameters (00 R6). -/
structure Params where
  /-- `PINS_PER_PORT` -/
  family : PortFamily
  /-- `NUM_PINS` -/
  numPins : Nat
  /-- `SET_ADDR(g)`, entry `g`; used when `PINS_PER_PORT = 32` -/
  setAddrs : List Word
  /-- `CLR_ADDR(g)`, entry `g`; used when `PINS_PER_PORT = 32` -/
  clrAddrs : List Word
  /-- `BSRR_ADDR(p)`, entry `p`; used when `PINS_PER_PORT = 16` -/
  bsrrAddrs : List Word
  /-- `W0`, native width -/
  w0 : Nat
  /-- `H0`, native height -/
  h0 : Nat
  /-- `BPP`, bits per pixel -/
  bpp : Nat
  /-- `ROT0`, initial rotation in degrees -/
  rot0 : Int
  /-- `BSWAP`, held and readable, no effect (20 R63) -/
  bswap : Bool
  /-- `TFA0` -/
  tfa0 : Nat
  /-- `VSA0` -/
  vsa0 : Nat
  /-- `BFA0` -/
  bfa0 : Nat
  /-- `NUM_DEVICES` -/
  numDevices : Nat
  /-- `WRITE_FREQ`, read by no rule (70 R283) -/
  writeFreq : Nat
  /-- `BLOCK_BASE` -/
  blockBase : Word
deriving DecidableEq, Repr

/-- The reference instance of 95 section 0. The GPIO register addresses, `WRITE_FREQ` and
`BLOCK_BASE`, which it leaves open, are the model's (log entry 2, DESIGN CHOICE). -/
def referenceParams : Params where
  family := .pins32
  numPins := 64
  setAddrs := [0x40000000#32, 0x40000010#32]
  clrAddrs := [0x40000004#32, 0x40000014#32]
  bsrrAddrs := []
  w0 := 4
  h0 := 6
  bpp := 8
  rot0 := 0
  bswap := false
  tfa0 := 0
  vsa0 := 6
  bfa0 := 0
  numDevices := 4
  writeFreq := 0
  blockBase := 0x50000000#32

end Sys2Proof
end

