-- ==== Sys2Proof/Machine/ParamOps.lean ====
section
/-! DEFINITION. What the parameters of spec 00 R6 give: group sizes, register addresses, bytes per
pixel, and the constraints that make an instance exist (00 R6, R7). -/

namespace Sys2Proof

/-- `PPP`, the number of pins in a group (41 R110). -/
def PortFamily.pins : PortFamily → Nat
  | .pins16 => 16
  | .pins32 => 32

/-- `Bpp = BPP / 8`, bytes per pixel (00 R6). -/
def Params.bytesPerPixel (p : Params) : Nat := p.bpp / 8

/-- The number of groups or ports that hold an addressable pin: `ceil(NUM_PINS / PINS_PER_PORT)`
(00 R6). -/
def Params.numGroups (p : Params) : Nat := (p.numPins + p.family.pins - 1) / p.family.pins

/-- `SET_ADDR(g)`. A group outside the table has no address in a legal instance; the default is
never reached there (log entry 16). -/
def Params.setAddr (p : Params) (g : Nat) : Word := p.setAddrs.getD g 0

/-- `CLR_ADDR(g)`. -/
def Params.clrAddr (p : Params) (g : Nat) : Word := p.clrAddrs.getD g 0

/-- `BSRR_ADDR(p)`. -/
def Params.bsrrAddr (p : Params) (g : Nat) : Word := p.bsrrAddrs.getD g 0

/-- The GPIO register addresses of the instance's family (20 R56). The tables of the family not in use
hold no register of the instance: no rule reads them and no constraint is asked of them (log entry
24, DESIGN CHOICE). -/
def Params.gpioAddrs (p : Params) : List Word :=
  match p.family with
  | .pins32 => p.setAddrs ++ p.clrAddrs
  | .pins16 => p.bsrrAddrs

/-- The address tables have one entry per group of the instance's family (00 R6); those of the family
not in use may have any length (log entry 24, DESIGN CHOICE). -/
abbrev Params.addrTablesFit (p : Params) : Prop :=
  (p.family = .pins32 → p.setAddrs.length = p.numGroups ∧ p.clrAddrs.length = p.numGroups) ∧
    (p.family = .pins16 → p.bsrrAddrs.length = p.numGroups)

/-- Each parameter is in its range (00 R6). -/
abbrev Params.inRange (p : Params) : Prop :=
  (1 ≤ p.numPins ∧ p.numPins ≤ 256) ∧ (1 ≤ p.w0 ∧ p.w0 ≤ 65535) ∧ (1 ≤ p.h0 ∧ p.h0 ≤ 65535) ∧
    (p.bpp = 8 ∨ p.bpp = 16 ∨ p.bpp = 24 ∨ p.bpp = 32) ∧ p.rot0 % 90 = 0 ∧
    p.tfa0 + p.vsa0 + p.bfa0 = p.h0 ∧ (1 ≤ p.numDevices ∧ p.numDevices ≤ 16) ∧
    p.blockBase.toNat % 64 = 0

/-- The GPIO addresses are one per group, multiples of 4 and all distinct (00 R6, R7, 92 D10), for
the family in use only (log entry 24, DESIGN CHOICE). -/
abbrev Params.addrsLegal (p : Params) : Prop :=
  p.addrTablesFit ∧ (∀ a ∈ p.gpioAddrs, a.toNat % 4 = 0) ∧ p.gpioAddrs.Nodup

/-- The constraints of 00 R6: an instance that breaks one does not exist (00 R7). -/
abbrev Params.Legal (p : Params) : Prop := p.inRange ∧ p.addrsLegal

end Sys2Proof
end

