-- ==== Sys2Proof/Machine/PointMap.lean ====
section
/-! DEFINITION. The rotation index and the logical-to-physical point maps (spec 10 R27, R28,
43 R170). -/

namespace Sys2Proof.Machine

/-- The rotation index `ROT`, 0 to 3, a quarter turn each (10 R27). -/
inductive Rot where
  | r0
  | r90
  | r180
  | r270
deriving DecidableEq, Repr

/-- The index 0 to 3. -/
def Rot.index : Rot → Fin 4
  | .r0 => 0
  | .r90 => 1
  | .r180 => 2
  | .r270 => 3

/-- The rotation with a given index. -/
def Rot.ofIndex : Fin 4 → Rot
  | 0 => .r0
  | 1 => .r90
  | 2 => .r180
  | 3 => .r270

/-- `(d mod 360) div 90` with the Euclidean `mod` of 00 R9 (10 R27, 43 R171). -/
def Rot.ofDegrees (d : Int) : Rot := Rot.ofIndex (Fin.ofNat 4 ((d % 360) / 90).toNat)

/-- The rotation in degrees, `90 * ROT` (10 R27). -/
def Rot.degrees (r : Rot) : Nat := 90 * r.index.val

/-- `LW`, the logical width under rotation `r` (10 R28). -/
def logicalWidth (p : Params) : Rot → Nat
  | .r0 => p.w0
  | .r90 => p.h0
  | .r180 => p.w0
  | .r270 => p.h0

/-- `LH`, the logical height under rotation `r` (10 R28). -/
def logicalHeight (p : Params) : Rot → Nat
  | .r0 => p.h0
  | .r90 => p.w0
  | .r180 => p.h0
  | .r270 => p.w0

/-- `M_n(x, y)`: the physical point of a logical point inside the surface (43 R170). -/
def toPhysical (p : Params) (r : Rot) (q : Nat × Nat) : Nat × Nat :=
  match r with
  | .r0 => (q.1, q.2)
  | .r90 => (p.w0 - 1 - q.2, q.1)
  | .r180 => (p.w0 - 1 - q.1, p.h0 - 1 - q.2)
  | .r270 => (q.2, p.h0 - 1 - q.1)

/-- `M_n^-1(px, py)`: the logical point of a physical point inside the panel (43 R170). -/
def toLogical (p : Params) (r : Rot) (q : Nat × Nat) : Nat × Nat :=
  match r with
  | .r0 => (q.1, q.2)
  | .r90 => (q.2, p.w0 - 1 - q.1)
  | .r180 => (p.w0 - 1 - q.1, p.h0 - 1 - q.2)
  | .r270 => (p.h0 - 1 - q.2, q.1)

end Sys2Proof.Machine
end

