-- ==== Sys2Proof/Syntax.lean ====
section
/-! DEFINITION. The fourteen commands of the block (spec 30 R80 to R83), one constructor per row of
the opcode table. -/

namespace Sys2Proof

/-- A role of a pin (10 R22): the eight data lines, chip-select, data/command and write-strobe.
The codes 11 to 15 are reserved and have no constructor. -/
inductive Role where
  | data (k : Fin 8)
  | cs
  | dc
  | wr
deriving DecidableEq, Repr

/-- The role number: 0 to 7 = D0 to D7, 8 = CS, 9 = DC, 10 = WR (10 R22, 30 R82). -/
def Role.index : Role → Fin 11
  | .data k => k.castLE (by decide)
  | .cs => 8
  | .dc => 9
  | .wr => 10

/-- The capability tag of a device (10 R30, 30 R82). -/
inductive Capability where
  | pointer
  | touch
deriving DecidableEq, Repr

/-- A command with its operands (30 R81, R82). Payload bytes are listed in payload order
(20 R54); `LEN` and `BLEN` are the lengths of the lists. -/
inductive Instr where
  /-- `PINSEL role, pin[, pol]`; `pol = true` is active-high -/
  | pinsel (role : Role) (pol : Bool) (pin : Byte)
  /-- `BUILD` -/
  | build
  /-- `TX`: an optional command byte and an optional data-byte sequence (`D:[]` is data present
  with no byte) -/
  | tx (cmd : Option Byte) (data : Option (List Byte))
  /-- `SETROT degrees`, the raw 28-bit immediate -/
  | setrot (imm : BitVec 28)
  /-- `GETROT` -/
  | getrot
  /-- `SETWIN tfa, vsa, bfa` -/
  | setwin (tfa vsa bfa : Half)
  /-- `SETOFS n`, or `SETOFS DISABLED` as `none` -/
  | setofs (ofs : Option Half)
  /-- `GETOFS` -/
  | getofs
  /-- `REGDEV pointer|touch, t0 t1 t2 t3` -/
  | regdev (cap : Capability) (t0 t1 t2 t3 : BitVec 3)
  /-- `SETXF dev, idx, xf` -/
  | setxf (dev : BitVec 4) (idx : BitVec 2) (xf : BitVec 3)
  /-- `XFORM dev, x, y`, the raw 16-bit samples -/
  | xform (dev : BitVec 4) (x y : Half)
  /-- `MAPPT lx, ly` -/
  | mappt (lx ly : Half)
  /-- `BLIT bx, by, bw, bh, bytes` -/
  | blit (bx bY bw bh : Half) (bytes : List Byte)
  /-- `COMPOSE` -/
  | compose
deriving DecidableEq, Repr

end Sys2Proof
end

