-- ==== Sys2Proof/Machine/State.lean ====
section
/-! DEFINITION. The state of the block as plain data (spec 10, 20, 70 R271), the reasons a step or
a host access can stop, and the state right after reset. -/

namespace Sys2Proof.Machine

/-- The block has no fault: nothing stops it (60 R242, R249), a failing command writes `LAST_ERR`
and the block goes on. So no meaning raises one; the type has no constructor. -/
inductive Fault where
deriving DecidableEq, Repr

/-- What the model does not accept. -/
inductive Refusal where
  /-- raised by `exec` for a command without a meaning; safe (none is left) -/
  | notModelled (mnemonic : String)
  /-- raised by `instantiate` for parameters that break 00 R6: such an instance does not exist
  (00 R7); safe -/
  | illegalParams
  /-- raised by a host access that is not an aligned 32-bit access: outside the block's interface,
  and the spec has a model refuse it (10 R35); safe -/
  | hostAccess
  /-- raised by a host access at an address outside the register window, which is no register of
  this block (10 R34, log entry 15); safe -/
  | outsideWindow
deriving DecidableEq, Repr

/-- The error codes `LAST_ERR` can hold (60 R240). Code 15 is never produced and has no
constructor. -/
inductive ErrCode where
  | ok
  | illegal
  | configBusWidth
  | configInvalidPin
  | configDuplicatePin
  | configMissingControl
  | configScrollExtents
  | invalidRotation
  | bufferSizeMismatch
  | outOfBounds
  | notConfigured
  | invalidOffset
  | invalidDevice
  | deviceTableFull
  | fatal
deriving DecidableEq, Repr

/-- `STAGE[r]` (10 R22). -/
structure StageEntry where
  valid : Bool
  pin : Byte
  pol : Bool
deriving DecidableEq, Repr

/-- One GPIO register write `GpioWrite(addr, v)` (20 R55); also a RegisterMask (10 R24). -/
structure GpioWrite where
  addr : Word
  value : Word
deriving DecidableEq, Repr

/-- `ACT[c]` and `DEACT[c]` of one control role (10 R24). -/
structure ControlMask where
  act : GpioWrite
  deact : GpioWrite
deriving DecidableEq, Repr

/-- The installed RegisterMap, one pair per control role (10 R24). -/
structure RegisterMap where
  cs : ControlMask
  dc : ControlMask
  wr : ControlMask
deriving DecidableEq, Repr

/-- One pair of masks of the lookup table (10 R25). -/
structure LutEntry where
  setMask : Word
  clrMask : Word
deriving DecidableEq, Repr

/-- One spanned group `i`: `GRP[i]`, `FULL[i]` and `LUT[i][v]` as entry `v` of `lut` (10 R25). -/
structure LutGroup where
  grp : Nat
  full : Word
  lut : List LutEntry
deriving DecidableEq, Repr

/-- `DEV[d]` (10 R30). -/
structure Device where
  valid : Bool
  cap : Capability
  xf : Vector (BitVec 3) 4
deriving DecidableEq, Repr

/-- A pixel buffer as the list of its written bytes, `(offset, byte)`. A byte the list does not
hold is unwritten and has no value (20 R64). -/
structure Memory where
  cells : List Host.Cell
deriving DecidableEq, Repr

/-- The one canonical form of a memory: offsets strictly rising. (No entry can equal what an
unlisted offset reads as: an unlisted byte has no value.) -/
abbrev Memory.wf (m : Memory) : Prop := m.cells.Pairwise fun c d => c.1 < d.1

/-- The state of the block. -/
structure State where
  /-- the parameters of the instance (00 R6); no step changes them (log entry 1) -/
  par : Params
  /-- the command stream `S`, every word the host has written (20 R50, log entry 3) -/
  stream : List Word
  /-- `CP` (10 R21) -/
  cp : Nat
  /-- the words already fetched of a command whose last word has not arrived (20 R52, log
  entry 4) -/
  held : List Word
  /-- `WAITING` (10 R32) -/
  waiting : Bool
  /-- `STAGE[0..10]` (10 R22) -/
  stage : Vector StageEntry 11
  /-- `BUS_READY` (10 R23) -/
  busReady : Bool
  /-- `BUS_FATAL` (10 R23) -/
  busFatal : Bool
  /-- `ACT`, `DEACT` (10 R24) -/
  ctl : RegisterMap
  /-- `NG` (10 R25) -/
  ng : Nat
  /-- `GRP`, `FULL`, `LUT` (10 R25) -/
  groups : List LutGroup
  /-- `LAST`, `none` = `NONE` (10 R26) -/
  last : Option Byte
  /-- `ROT` (10 R27) -/
  rot : Rot
  /-- `TFA` (10 R29) -/
  tfa : Half
  /-- `VSA` (10 R29) -/
  vsa : Half
  /-- `BFA` (10 R29) -/
  bfa : Half
  /-- `OFS`, `none` = `DISABLED` (10 R29) -/
  ofs : Option Half
  /-- `DEV`; the slots below `NUM_DEVICES` are the block's (10 R30, log entry 18) -/
  devices : Vector Device 16
  /-- `RESULT` (10 R31) -/
  result : Word
  /-- `LAST_ERR` (10 R32) -/
  lastErr : ErrCode
  /-- `ANY_ERR` (10 R32) -/
  anyErr : Bool
  /-- `BB`, the backing buffer (20 R60) -/
  bb : Memory
  /-- `PF`, the physical frame (20 R61) -/
  pf : Memory
  /-- `T`, the GPIO write trace, oldest first (20 R55) -/
  trace : List GpioWrite
deriving DecidableEq, Repr

/-- `LW` (10 R28). -/
def State.lw (s : State) : Nat := logicalWidth s.par s.rot

/-- `LH` (10 R28). -/
def State.lh (s : State) : Nat := logicalHeight s.par s.rot

/-- The value of a RegisterMask while nothing is installed; the spec says unspecified and unread
(10 R24, log entry 6, DESIGN CHOICE). -/
def GpioWrite.unset : GpioWrite := ⟨0, 0⟩

/-- A control role's masks while nothing is installed (log entry 6). -/
def ControlMask.unset : ControlMask := ⟨.unset, .unset⟩

/-- The RegisterMap while nothing is installed (log entry 6). -/
def RegisterMap.unset : RegisterMap := ⟨.unset, .unset, .unset⟩

/-- The state right after reset of an instance with parameters `p` (70 R270, R271). -/
def State.resetOf (p : Params) : State where
  par := p
  stream := []
  cp := 0
  held := []
  waiting := false
  stage := Vector.replicate 11 ⟨false, 0, false⟩
  busReady := false
  busFatal := false
  ctl := .unset
  ng := 0
  groups := []
  last := none
  rot := Rot.ofDegrees p.rot0
  tfa := BitVec.ofNat 16 p.tfa0
  vsa := BitVec.ofNat 16 p.vsa0
  bfa := BitVec.ofNat 16 p.bfa0
  ofs := none
  devices := Vector.replicate 16 ⟨false, .pointer, Vector.replicate 4 0⟩
  result := 0
  lastErr := .ok
  anyErr := false
  bb := ⟨[]⟩
  pf := ⟨[]⟩
  trace := []

/-- The machine right after reset: the reference instance of 95 section 0 (log entry 1). -/
def State.reset : State := State.resetOf referenceParams

end Sys2Proof.Machine
end

