-- ==== Sys2Proof/Machine/Ops.lean ====
section
/-! DEFINITION. The named operations over the pixel buffers and the registers, error reporting
(the block's one form of exception, spec 60 R242), instantiation and platform reset. -/

namespace Sys2Proof.Machine

/-! ### Pixel buffers (20 R60 to R64) -/

/-- The byte a cell list holds at an offset. -/
def cellRead : List Host.Cell → Nat → Option Byte
  | [], _ => none
  | c :: cs, a => if c.1 = a then some c.2 else cellRead cs a

/-- A cell list with one byte written, rising offsets kept. -/
def cellInsert : List Host.Cell → Nat → Byte → List Host.Cell
  | [], a, v => [(a, v)]
  | c :: cs, a, v =>
    if a < c.1 then (a, v) :: c :: cs
    else if c.1 = a then (a, v) :: cs
    else c :: cellInsert cs a v

/-- One byte of a buffer with its written mark: `none` = unwritten (20 R64). -/
def Memory.read (m : Memory) (a : Nat) : Option Byte := cellRead m.cells a

/-- One byte of a buffer replaced, value and written mark together (20 R64). Writing an unwritten
byte removes the entry. -/
def Memory.write (m : Memory) (a : Nat) : Option Byte → Memory
  | some v => ⟨cellInsert m.cells a v⟩
  | none => ⟨m.cells.filter fun c => c.1 ≠ a⟩

/-- `n` bytes copied in order, value and mark, from offset `so` of `src` to offset `d` of `dst`
(20 R62 to R64). -/
def copyBytes (n : Nat) (src : Memory) (so : Nat) (dst : Memory) (d : Nat) : Memory :=
  (List.range n).foldl (fun m j => m.write (d + j) (src.read (so + j))) dst

/-- `n` bytes of a payload from position `k` written in order at offset `d`; they become written
(44 R197, 20 R63). -/
def storeBytes (n : Nat) (p : List Byte) (k : Nat) (dst : Memory) (d : Nat) : Memory :=
  (List.range n).foldl (fun m j => m.write (d + j) (some (p.getD (k + j) 0))) dst

/-- The offset of pixel `(x, y)` in a row-major buffer `width` pixels wide (20 R60, R61). -/
def pixelOffset (width bytesPerPixel x y : Nat) : Nat := (y * width + x) * bytesPerPixel

/-- The points of a `width` by `height` grid, row by row, `x` upward in each row: the order of the
nested loops of 43 R173 and 44 R197. -/
def gridPoints (width height : Nat) : List (Nat × Nat) :=
  (List.range height).flatMap fun y => (List.range width).map fun x => (x, y)

/-- `BB[x, y]`, byte `j` of the pixel (20 R60). -/
def State.bbByte (s : State) (x y j : Nat) : Option Byte :=
  s.bb.read (pixelOffset s.lw s.par.bytesPerPixel x y + j)

/-- `PF[px, py]`, byte `j` of the pixel (20 R61). -/
def State.pfByte (s : State) (px py j : Nat) : Option Byte :=
  s.pf.read (pixelOffset s.par.w0 s.par.bytesPerPixel px py + j)

/-! ### The end of a command (60 R240 to R244) -/

/-- The 4-bit code of an error (60 R240). -/
def ErrCode.code : ErrCode → BitVec 4
  | .ok => 0
  | .illegal => 1
  | .configBusWidth => 2
  | .configInvalidPin => 3
  | .configDuplicatePin => 4
  | .configMissingControl => 5
  | .configScrollExtents => 6
  | .invalidRotation => 7
  | .bufferSizeMismatch => 8
  | .outOfBounds => 9
  | .notConfigured => 10
  | .invalidOffset => 11
  | .invalidDevice => 12
  | .deviceTableFull => 13
  | .fatal => 14

/-- `raise Error(code)`: the command ends, `LAST_ERR` and `ANY_ERR` are written and nothing else
(60 R242). -/
def State.raise (s : State) (e : ErrCode) : State := { s with lastErr := e, anyErr := true }

/-- A command that completes writes `LAST_ERR <- 0` and leaves `ANY_ERR` (60 R244). -/
def State.complete (s : State) : State := { s with lastErr := .ok }

/-- `RESULT <- v` (10 R31). -/
def State.setResult (s : State) (v : Word) : State := { s with result := v }

/-! ### Register updates, one per group of registers a rule writes together -/

/-- `STAGE[r] <- e` (41 R111). -/
def State.stagePin (s : State) (r : Role) (e : StageEntry) : State :=
  { s with stage := s.stage.set r.index.val e }

/-- The bus status a failing `BUILD` check leaves (41 R114). -/
def State.killBus (s : State) : State :=
  { s with busReady := false, busFatal := true, ng := 0, last := none }

/-- A RegisterMap and lookup table installed (41 R113, R118). -/
def State.installBus (s : State) (ctl : RegisterMap) (groups : List LutGroup) : State :=
  { s with ctl := ctl, ng := groups.length, groups := groups, busReady := true, last := none }

/-- GPIO writes issued, in order, and the eliminator's new `LAST` (20 R55, 42 R145). -/
def State.emit (s : State) (ws : List GpioWrite) (last : Option Byte) : State :=
  { s with trace := s.trace ++ ws, last := last }

/-- A new rotation with the rebuilt backing buffer (43 R171). -/
def State.setRotation (s : State) (r : Rot) (bb : Memory) : State := { s with rot := r, bb := bb }

/-- A new scroll window and the offset it leaves (44 R191). -/
def State.setWindow (s : State) (tfa vsa bfa : Half) (ofs : Option Half) : State :=
  { s with tfa := tfa, vsa := vsa, bfa := bfa, ofs := ofs }

/-- `OFS <- o` (44 R193). -/
def State.setOffset (s : State) (o : Option Half) : State := { s with ofs := o }

/-- `DEV[d] <- e` (45 R221, R223). -/
def State.setDevice (s : State) (d : Nat) (e : Device) : State :=
  { s with devices := s.devices.setIfInBounds d e }

/-- The backing buffer replaced (44 R197). -/
def State.setBacking (s : State) (m : Memory) : State := { s with bb := m }

/-- The physical frame replaced (44 R199). -/
def State.setFrame (s : State) (m : Memory) : State := { s with pf := m }

/-! ### Instantiation and reset -/

/-- An instance with parameters `p`, right after reset; parameters that break 00 R6 are refused
(00 R7). -/
def instantiate (p : Params) : Host.Outcome State Fault Refusal :=
  if p.Legal then .next (State.resetOf p) else .refused .illegalParams

/-- The platform's reset of the block at a command boundary or inside a command whose words have not
all arrived (70 R270): every field at its reset value and the stream emptied. The writes already
issued stay issued, and reset makes none, so the trace keeps its entries (log entry 9). A reset
inside a command being executed is `State.resetDuring`. -/
def State.platformReset (s : State) : State := { State.resetOf s.par with trace := s.trace }

end Sys2Proof.Machine
end

