-- ==== Sys2Proof/Machine/Operands.lean ====
section
/-! DEFINITION. The operand forms of spec 30 R82 that a meaning reads as something else than the
field's own bits: signed immediates and samples, and the transform codes of 45 R220. -/

namespace Sys2Proof.Machine

/-- `sext_28(IMM28)`, degrees (30 R82). -/
def degreesOf (imm : BitVec 28) : Int := imm.toInt

/-- `sext_16`, a raw device sample (30 R82). -/
def sampleOf (x : Half) : Int := x.toInt

/-- `trunc_16` of an integer (00 R9). -/
def trunc16 (i : Int) : Half := BitVec.ofInt 16 i

/-- Bit 2 of a transform code, SWAP (45 R220). -/
def xfSwap (xf : BitVec 3) : Bool := xf.getLsbD 2

/-- Bit 1, REVX (45 R220). -/
def xfRevX (xf : BitVec 3) : Bool := xf.getLsbD 1

/-- Bit 0, REVY (45 R220). -/
def xfRevY (xf : BitVec 3) : Bool := xf.getLsbD 0

/-- `apply(xf, x, y)` before the truncation, under the logical size `lw` by `lh` (45 R220): swap
first, then the reversals. -/
def applyTransform (lw lh : Nat) (xf : BitVec 3) (x y : Int) : Int × Int :=
  let uv := if xfSwap xf then (y, x) else (x, y)
  (if xfRevX xf then (lw : Int) - 1 - uv.1 else uv.1,
    if xfRevY xf then (lh : Int) - 1 - uv.2 else uv.2)

/-- A point as a `RESULT` word, `x` in `[31:16]` and `y` in `[15:0]` (43 R177, 45 R225). -/
def pointWord (x y : Half) : Word := asWord (x ++ y)

/-- The device slot a `DEV` field names, when it is registered: `none` where 45 R223 and R225 raise
`INVALID_DEVICE`. -/
def State.registeredDevice (s : State) (dev : BitVec 4) : Option Device :=
  if dev.toNat ≥ s.par.numDevices then none
  else if s.devices[dev.toNat].valid then some s.devices[dev.toNat] else none

end Sys2Proof.Machine
end

