-- ==== Sys2Proof/Machine/BusConfig.lean ====
section
/-! DEFINITION. PINSEL and BUILD: pin staging, the RegisterMap and the lookup table
(spec 41 R110 to R120). -/

namespace Sys2Proof.Machine

/-- `grp(n) = n div PPP` (41 R110). -/
def pinGroup (p : Params) (n : Byte) : Nat := n.toNat / p.family.pins

/-- `lb(n) = n mod PPP` (41 R110). -/
def pinBit (p : Params) (n : Byte) : Nat := n.toNat % p.family.pins

/-- `1 << lb(n)` (41 R118). -/
def pinMask (p : Params) (n : Byte) : Word := 1#32 <<< pinBit p n

/-- `regmap(n, pol)` (41 R117). -/
def regmap (p : Params) (n : Byte) (pol : Bool) : ControlMask :=
  match p.family with
  | .pins32 =>
    let set : GpioWrite := ⟨p.setAddr (pinGroup p n), pinMask p n⟩
    let clr : GpioWrite := ⟨p.clrAddr (pinGroup p n), pinMask p n⟩
    if pol then ⟨set, clr⟩ else ⟨clr, set⟩
  | .pins16 =>
    let set : GpioWrite := ⟨p.bsrrAddr (pinGroup p n), pinMask p n⟩
    let clr : GpioWrite := ⟨p.bsrrAddr (pinGroup p n), pinMask p n <<< 16⟩
    if pol then ⟨set, clr⟩ else ⟨clr, set⟩

/-- The OR of the masks of the listed data pins that lie in group `g` and whose bit `k` (their
place in the list) is wanted (41 R118). -/
def groupMask (p : Params) (g : Nat) (want : Nat → Bool) (pins : List Byte) : Word :=
  pins.zipIdx.foldl
    (fun m e => if want e.2 && pinGroup p e.1 == g then m ||| pinMask p e.1 else m) 0#32

/-- `FULL[i]` of group `g` (41 R118). -/
def fullMask (p : Params) (g : Nat) (pins : List Byte) : Word :=
  groupMask p g (fun _ => true) pins

/-- `LUT[i][v]` of group `g` (41 R118). -/
def lutEntry (p : Params) (g : Nat) (pins : List Byte) (v : Byte) : LutEntry :=
  let setMask := groupMask p g (fun r => v.getLsbD r) pins
  ⟨setMask, fullMask p g pins ^^^ setMask⟩

/-- `G`: the distinct groups of the data pins in ascending order (41 R118). An 8-bit pin number
lies in one of the groups 0 to 15. -/
def spannedGroups (p : Params) (pins : List Byte) : List Nat :=
  (List.range 16).filter fun g => pins.any fun n => pinGroup p n == g

/-- One group's part of the lookup table (41 R118). -/
def lutGroup (p : Params) (pins : List Byte) (g : Nat) : LutGroup where
  grp := g
  full := fullMask p g pins
  lut := (List.range 256).map fun v => lutEntry p g pins (BitVec.ofNat 8 v)

/-- The lookup table of a pin assignment (41 R118). -/
def buildLut (p : Params) (pins : List Byte) : List LutGroup :=
  (spannedGroups p pins).map (lutGroup p pins)

/-- `STAGE[r]` of a role. -/
def State.staged (s : State) (r : Role) : StageEntry := s.stage[r.index.val]

/-- The staged entries of roles 0 to 7, the data pins. -/
def State.stagedData (s : State) : List StageEntry := s.stage.toList.take 8

/-- The staged entries of roles 8 to 10, the control pins. -/
def State.stagedControl (s : State) : List StageEntry := s.stage.toList.drop 8

/-- The staged pins of all eleven roles. -/
def State.stagedPins (s : State) : List Byte := s.stage.toList.map (·.pin)

/-- The staged data pins `pin_0 .. pin_7`. -/
def State.stagedDataPins (s : State) : List Byte := s.stagedData.map (·.pin)

/-- The first configuration check of `BUILD` that fails, in the order of 41 R113 and R115. -/
def State.configError (s : State) : Option ErrCode :=
  if s.stagedData.any fun e => !e.valid then some .configBusWidth
  else if s.stagedControl.any fun e => !e.valid then some .configMissingControl
  else if s.stagedPins.any fun n => decide (n.toNat ≥ s.par.numPins) then some .configInvalidPin
  else if s.stagedPins.Nodup then none
  else some .configDuplicatePin

/-- The RegisterMap of the staged control pins (41 R113, R117). -/
def State.stagedRegisterMap (s : State) : RegisterMap where
  cs := regmap s.par (s.staged .cs).pin (s.staged .cs).pol
  dc := regmap s.par (s.staged .dc).pin (s.staged .dc).pol
  wr := regmap s.par (s.staged .wr).pin (s.staged .wr).pol

/-- PINSEL (41 R111). -/
def execPinsel (role : Role) (pol : Bool) (pin : Byte) (s : State) :
    Host.Outcome State Fault Refusal :=
  .next (s.stagePin role ⟨true, pin, pol⟩).complete

/-- BUILD (41 R113, R114). -/
def execBuild (s : State) : Host.Outcome State Fault Refusal :=
  if s.busFatal then .next (s.raise .fatal)
  else
    match s.configError with
    | some e => .next (s.killBus.raise e)
    | none =>
      .next (s.installBus s.stagedRegisterMap (buildLut s.par s.stagedDataPins)).complete

end Sys2Proof.Machine
end

