-- ==== Sys2Proof/Machine/Devices.lean ====
section
/-! DEFINITION. REGDEV, SETXF and XFORM (spec 45 R220 to R225). -/

namespace Sys2Proof.Machine

/-- The lowest slot in `0 .. NUM_DEVICES-1` with `valid = 0` (45 R221). -/
def State.freeSlot (s : State) : Option (Fin 16) :=
  (List.finRange 16).find? fun d => decide (d.val < s.par.numDevices) && !s.devices[d.val].valid

/-- REGDEV (45 R221). -/
def execRegdev (cap : Capability) (t0 t1 t2 t3 : BitVec 3) (s : State) :
    Host.Outcome State Fault Refusal :=
  match s.freeSlot with
  | none => .next (s.raise .deviceTableFull)
  | some d =>
    .next ((s.setDevice d.val ⟨true, cap, #v[t0, t1, t2, t3]⟩).setResult
      (BitVec.ofNat 32 d.val)).complete

/-- SETXF (45 R223). -/
def execSetxf (dev : BitVec 4) (idx : BitVec 2) (xf : BitVec 3) (s : State) :
    Host.Outcome State Fault Refusal :=
  match s.registeredDevice dev with
  | none => .next (s.raise .invalidDevice)
  | some e => .next (s.setDevice dev.toNat { e with xf := e.xf.set idx.toNat xf }).complete

/-- XFORM (45 R225): the code for the current rotation, read at each use (10 R30). -/
def execXform (dev : BitVec 4) (x y : Half) (s : State) : Host.Outcome State Fault Refusal :=
  match s.registeredDevice dev with
  | none => .next (s.raise .invalidDevice)
  | some e =>
    let q := applyTransform s.lw s.lh e.xf[s.rot.index.val] (sampleOf x) (sampleOf y)
    .next (s.setResult (pointWord (trunc16 q.1) (trunc16 q.2))).complete

end Sys2Proof.Machine
end

