-- ==== Sys2Proof/Machine/Rotation.lean ====
section
/-! DEFINITION. SETROT, GETROT and MAPPT (spec 43 R170 to R177). -/

namespace Sys2Proof.Machine

/-- `rebuild(old, m, n)`: the new backing buffer, filled pixel by pixel from the old one so that
every physical pixel keeps its content (43 R173). -/
def rebuild (p : Params) (old : Memory) (m n : Rot) : Memory :=
  (gridPoints (logicalWidth p n) (logicalHeight p n)).foldl
    (fun bb q =>
      let o := toLogical p m (toPhysical p n q)
      copyBytes p.bytesPerPixel old
        (pixelOffset (logicalWidth p m) p.bytesPerPixel o.1 o.2) bb
        (pixelOffset (logicalWidth p n) p.bytesPerPixel q.1 q.2))
    ⟨[]⟩

/-- The rotation part of SETROT for a legal number of degrees: nothing but `ROT` and `BB`, and
those only when the index changes (43 R171). -/
def State.rotateTo (s : State) (n : Rot) : State :=
  if n = s.rot then s else s.setRotation n (rebuild s.par s.bb s.rot n)

/-- SETROT (43 R171). -/
def execSetrot (imm : BitVec 28) (s : State) : Host.Outcome State Fault Refusal :=
  if degreesOf imm % 90 ≠ 0 then .next (s.raise .invalidRotation)
  else .next (s.rotateTo (Rot.ofDegrees (degreesOf imm))).complete

/-- GETROT (43 R175). -/
def execGetrot (s : State) : Host.Outcome State Fault Refusal :=
  .next (s.setResult (BitVec.ofNat 32 s.rot.degrees)).complete

/-- MAPPT (43 R177). -/
def execMappt (lx ly : Half) (s : State) : Host.Outcome State Fault Refusal :=
  if lx.toNat ≥ s.lw ∨ ly.toNat ≥ s.lh then .next (s.raise .outOfBounds)
  else
    let q := toPhysical s.par s.rot (lx.toNat, ly.toNat)
    .next (s.setResult (pointWord (BitVec.ofNat 16 q.1) (BitVec.ofNat 16 q.2))).complete

end Sys2Proof.Machine
end

