-- ==== Sys2Proof/Machine/Scroll.lean ====
section
/-! DEFINITION. SETWIN, SETOFS, GETOFS, BLIT and COMPOSE (spec 44 R190 to R201). -/

namespace Sys2Proof.Machine

/-- The offset a window of scroll area `vsa` leaves: kept when still inside, else `DISABLED`
(44 R192). -/
def keptOffset (ofs : Option Half) (vsa : Half) : Option Half :=
  match ofs with
  | none => none
  | some o => if o.toNat ≥ vsa.toNat then none else some o

/-- SETWIN (44 R191); the sum is exact. -/
def execSetwin (tfa vsa bfa : Half) (s : State) : Host.Outcome State Fault Refusal :=
  if tfa.toNat + vsa.toNat + bfa.toNat ≠ s.par.h0 then .next (s.raise .configScrollExtents)
  else .next (s.setWindow tfa vsa bfa (keptOffset s.ofs vsa)).complete

/-- SETOFS (44 R193). -/
def execSetofs (ofs : Option Half) (s : State) : Host.Outcome State Fault Refusal :=
  match ofs with
  | none => .next (s.setOffset none).complete
  | some o =>
    if o.toNat ≥ s.vsa.toNat then .next (s.raise .invalidOffset)
    else .next (s.setOffset (some o)).complete

/-- The offset as GETOFS reads it (44 R195). -/
def offsetWord : Option Half → Word
  | none => 0xFFFFFFFF#32
  | some o => o.setWidth 32

/-- GETOFS (44 R195). -/
def execGetofs (s : State) : Host.Outcome State Fault Refusal :=
  .next (s.setResult (offsetWord s.ofs)).complete

/-- The payload stored as the rectangle at `(bx, by)`, `bw` by `bh` pixels, of a backing buffer
`lw` pixels wide (44 R197). -/
def blitPixels (bytesPerPixel lw bx bY bw bh : Nat) (bytes : List Byte) (bb : Memory) : Memory :=
  (gridPoints bw bh).foldl
    (fun m q =>
      storeBytes bytesPerPixel bytes ((q.2 * bw + q.1) * bytesPerPixel) m
        (pixelOffset lw bytesPerPixel (bx + q.1) (bY + q.2)))
    bb

/-- BLIT (44 R197). -/
def execBlit (bx bY bw bh : Half) (bytes : List Byte) (s : State) :
    Host.Outcome State Fault Refusal :=
  if bx.toNat + bw.toNat > s.lw ∨ bY.toNat + bh.toNat > s.lh then .next (s.raise .outOfBounds)
  else if bytes.length ≠ bw.toNat * bh.toNat * s.par.bytesPerPixel then
    .next (s.raise .bufferSizeMismatch)
  else
    .next (s.setBacking (blitPixels s.par.bytesPerPixel s.lw bx.toNat bY.toNat bw.toNat bh.toNat
      bytes s.bb)).complete

/-- `o`: 0 when `OFS = DISABLED`, else `OFS` (44 R199). -/
def State.scrollStart (s : State) : Nat := (s.ofs.getD 0).toNat

/-- `src_row(py)` (44 R196): the closed form that R201 gives for the four passes. -/
def srcRow (tfa vsa o py : Nat) : Nat :=
  if py < tfa then py else if py < tfa + vsa then tfa + (py - tfa + o) % vsa else py

/-- The rows COMPOSE copies, `(dst, src)`, in the order of its four passes (44 R199, R200). -/
def composeRows (h0 tfa vsa o : Nat) : List (Nat × Nat) :=
  (List.range tfa).map (fun py => (py, py)) ++
  (List.range (vsa - o)).map (fun j => (tfa + j, tfa + o + j)) ++
  (List.range o).map (fun j => (tfa + vsa - o + j, tfa + j)) ++
  (List.range (h0 - (tfa + vsa))).map fun j => (tfa + vsa + j, tfa + vsa + j)

/-- `copyrow(dst, src)` into a physical frame (44 R199). -/
def State.copyRow (s : State) (pf : Memory) (row : Nat × Nat) : Memory :=
  (List.range s.par.w0).foldl
    (fun m px =>
      let q := toLogical s.par s.rot (px, row.2)
      copyBytes s.par.bytesPerPixel s.bb
        (pixelOffset s.lw s.par.bytesPerPixel q.1 q.2) m
        (pixelOffset s.par.w0 s.par.bytesPerPixel px row.1))
    pf

/-- The physical frame after the four passes (44 R199). -/
def State.composed (s : State) : Memory :=
  (composeRows s.par.h0 s.tfa.toNat s.vsa.toNat s.scrollStart).foldl s.copyRow s.pf

/-- COMPOSE (44 R199). -/
def execCompose (s : State) : Host.Outcome State Fault Refusal :=
  .next (s.setFrame s.composed).complete

end Sys2Proof.Machine
end

