-- ==== Sys2Proof/Machine/Transmit.lean ====
section
/-! DEFINITION. TX: the strobe sequence with redundant-toggle elision (spec 42 R140 to R148). -/

namespace Sys2Proof.Machine

/-- `LUT[i][v]` of a group (10 R25). -/
def LutGroup.entry (g : LutGroup) (v : Byte) : LutEntry := g.lut.getD v.toNat ⟨0, 0⟩

/-- `datawrite(i, v)` (42 R146). -/
def dataWrite (p : Params) (v : Byte) (g : LutGroup) : List GpioWrite :=
  match p.family with
  | .pins32 =>
    [⟨p.setAddr g.grp, (g.entry v).setMask⟩, ⟨p.clrAddr g.grp, (g.entry v).clrMask⟩]
  | .pins16 => [⟨p.bsrrAddr g.grp, (g.entry v).setMask ||| (g.entry v).clrMask <<< 16⟩]

/-- `datawrite(i, v)` for `i` in `0 .. NG-1` (42 R145). -/
def State.dataWrites (s : State) (v : Byte) : List GpioWrite :=
  (s.groups.take s.ng).flatMap (dataWrite s.par v)

/-- The writes of `strobe(v)` when `LAST` is `last` (42 R145). -/
def State.strobe (s : State) (last : Option Byte) (v : Byte) : List GpioWrite :=
  s.ctl.wr.deact :: (if last = some v then [] else s.dataWrites v) ++ [s.ctl.wr.act]

/-- `strobe` of a sequence of bytes; after `strobe(v)`, `LAST = v` (42 R145). -/
def State.strobes (s : State) : Option Byte → List Byte → List GpioWrite
  | _, [] => []
  | last, v :: vs => s.strobe last v ++ s.strobes (some v) vs

/-- `LAST` after a sequence of bytes (42 R145). -/
def lastAfter (last : Option Byte) (vs : List Byte) : Option Byte :=
  vs.foldl (fun _ v => some v) last

/-- The command phase of a transaction (42 R141 step 2). -/
def State.commandPhase (s : State) : Option Byte → List GpioWrite
  | none => []
  | some c => s.ctl.dc.deact :: s.strobe s.last c

/-- The data phase of a transaction, entered with `LAST = last` (42 R141 step 3). -/
def State.dataPhase (s : State) (last : Option Byte) : Option (List Byte) → List GpioWrite
  | none => []
  | some bs => s.ctl.dc.act :: s.strobes last bs

/-- Every write of one transaction (42 R141, R142). -/
def State.transaction (s : State) (cmd : Option Byte) (data : Option (List Byte)) :
    List GpioWrite :=
  s.ctl.cs.act :: s.commandPhase cmd ++ s.dataPhase (lastAfter s.last cmd.toList) data ++
    [s.ctl.cs.deact]

/-- TX (42 R141). -/
def execTx (cmd : Option Byte) (data : Option (List Byte)) (s : State) :
    Host.Outcome State Fault Refusal :=
  if s.busFatal then .next (s.raise .fatal)
  else if s.busReady then
    .next (s.emit (s.transaction cmd data)
      (lastAfter s.last (cmd.toList ++ data.getD []))).complete
  else .next (s.raise .notConfigured)

end Sys2Proof.Machine
end

