-- ==== Sys2Proof/Machine/Dispatch.lean ====
section
/-! DEFINITION. The meaning of every command, one arm per constructor of `Instr`. -/

namespace Sys2Proof.Machine

/-- The effect of one command whose words have all been fetched (spec 30 R85 steps 5 and 6). -/
def exec (i : Instr) (s : State) : Host.Outcome State Fault Refusal :=
  match i with
  | .pinsel role pol pin => Sys2Proof.Machine.execPinsel role pol pin s
  | .build => Sys2Proof.Machine.execBuild s
  | .tx cmd data => Sys2Proof.Machine.execTx cmd data s
  | .setrot imm => Sys2Proof.Machine.execSetrot imm s
  | .getrot => Sys2Proof.Machine.execGetrot s
  | .setwin tfa vsa bfa => Sys2Proof.Machine.execSetwin tfa vsa bfa s
  | .setofs ofs => Sys2Proof.Machine.execSetofs ofs s
  | .getofs => Sys2Proof.Machine.execGetofs s
  | .regdev cap t0 t1 t2 t3 => Sys2Proof.Machine.execRegdev cap t0 t1 t2 t3 s
  | .setxf dev idx xf => Sys2Proof.Machine.execSetxf dev idx xf s
  | .xform dev x y => Sys2Proof.Machine.execXform dev x y s
  | .mappt lx ly => Sys2Proof.Machine.execMappt lx ly s
  | .blit bx bY bw bh bytes => Sys2Proof.Machine.execBlit bx bY bw bh bytes s
  | .compose => Sys2Proof.Machine.execCompose s

end Sys2Proof.Machine
end

