-- ==== Sys2Proof/WellFormed.lean ====
section
/-! DEFINITION. The commands that have an encoding: the legality conditions of spec 30 R86 that the
syntax does not rule out by its types, and the widths of the two length fields (30 R82). -/

namespace Sys2Proof

/-- A data role has polarity 0 (30 R86, 41 R112). -/
def Role.polarityOk : Role → Bool → Bool
  | .data _, pol => !pol
  | .cs, _ => true
  | .dc, _ => true
  | .wr, _ => true

/-- `LEN` fits its 16 bits (30 R82). -/
def txLengthOk (data : Option (List Byte)) : Bool := decide ((data.getD []).length < 65536)

/-- `BLEN` fits its 32 bits (30 R82). -/
def blitLengthOk (bytes : List Byte) : Bool := decide (bytes.length < 4294967296)

/-- The command has an encoding in the formats of 30 R81 that 30 R86 does not call illegal. -/
def Instr.wellFormed : Instr → Bool
  | .pinsel role pol _ => role.polarityOk pol
  | .build => true
  | .tx _ data => txLengthOk data
  | .setrot _ => true
  | .getrot => true
  | .setwin _ _ _ => true
  | .setofs _ => true
  | .getofs => true
  | .regdev _ _ _ _ _ => true
  | .setxf _ _ _ => true
  | .xform _ _ _ => true
  | .mappt _ _ => true
  | .blit _ _ _ _ bytes => blitLengthOk bytes
  | .compose => true

end Sys2Proof
end

