-- ==== Sys2Proof/Decode.lean ====
section
/-! DEFINITION. Command framing, the decoder (total, rejecting by name) and after it the encoder
(spec 30 R80 to R88, 20 R54). -/

namespace Sys2Proof

/-- Why a command has no decoding. Each name but `truncated` is a clause of 30 R86. Safe: the block
itself reports every one of them as `ILLEGAL`. -/
inductive DecodeError where
  /-- fewer words than the command's length; the block waits for them first (30 R85), so its step
  never meets this -/
  | truncated
  /-- opcode 0x0 or 0xF -/
  | reservedOpcode
  /-- a field marked 0 in 30 R81 holds a 1 bit -/
  | reservedBits
  /-- PINSEL with ROLE 11 to 15 -/
  | reservedRole
  /-- PINSEL of a data role with POL = 1 -/
  | dataPolarity
  /-- TX with C = 0 and CMD not 0 -/
  | commandByteWithoutC
  /-- TX with D = 0 and LEN not 0 -/
  | lengthWithoutD
  /-- SETOFS with DIS = 1 and OFS not 0 -/
  | offsetWithDisable
deriving DecidableEq, Repr

/-- `w[31:28]`, which alone selects the command (30 R80, R87). -/
def opcode (w0 : Word) : BitVec 4 := w0.extractLsb' 28 4

/-- `ceil(n / 4)`, the payload words of `n` bytes (30 R84). -/
def payloadWords (n : Nat) : Nat := (n + 3) / 4

/-- `LEN` of a TX (30 R81). -/
def lenField (w0 : Word) : Half := w0.extractLsb' 0 16

/-- The length in words of the command at the head of the stream, or `none` while too few words
have arrived to tell (30 R84). It does not depend on the command being legal. -/
def commandLength : List Word → Option Nat
  | [] => none
  | w0 :: rest =>
    match (opcode w0).toNat with
    | 0x3 => some (1 + payloadWords (lenField w0).toNat)
    | 0x6 => some 2
    | 0xB => some 2
    | 0xC => some 2
    | 0xD =>
      match rest with
      | _ :: _ :: w3 :: _ => some (4 + payloadWords w3.toNat)
      | _ => none
    | _ => some 1

/-- The four bytes of a payload word, byte 0 in the low bits (20 R54). -/
def wordBytes (w : Word) : List Byte :=
  [w.extractLsb' 0 8, w.extractLsb' 8 8, w.extractLsb' 16 8, w.extractLsb' 24 8]

/-- The payload bytes of a list of payload words, in payload order (20 R54). -/
def unpackBytes (ws : List Word) : List Byte := ws.flatMap wordBytes

/-- The first `n` payload bytes; the rest of the last word is ignored (20 R54). -/
def payload (n : Nat) (ws : List Word) : Except DecodeError (List Byte) :=
  if (unpackBytes ws).length < n then .error .truncated else .ok ((unpackBytes ws).take n)

/-- ROLE (30 R82). -/
def decodeRole (r : BitVec 4) : Option Role :=
  if h : r.toNat < 8 then some (.data ⟨r.toNat, h⟩)
  else if r = 8#4 then some .cs
  else if r = 9#4 then some .dc
  else if r = 10#4 then some .wr
  else none

/-- CAP (30 R82). -/
def decodeCapability (b : Bool) : Capability := if b then .touch else .pointer

/-- A command of format `Z` (30 R81): nothing but the opcode. -/
def decodeBare (w0 : Word) (i : Instr) : Except DecodeError Instr :=
  if w0.extractLsb' 0 28 ≠ 0#28 then .error .reservedBits else .ok i

/-- Format `P` (30 R81). -/
def decodePinsel (w0 : Word) : Except DecodeError Instr :=
  if w0.extractLsb' 8 15 ≠ 0#15 then .error .reservedBits
  else
    match decodeRole (w0.extractLsb' 24 4) with
    | none => .error .reservedRole
    | some role =>
      if role.polarityOk (w0.getLsbD 23) then
        .ok (.pinsel role (w0.getLsbD 23) (w0.extractLsb' 0 8))
      else .error .dataPolarity

/-- Format `T` (30 R81). -/
def decodeTx (w0 : Word) (ops : List Word) : Except DecodeError Instr :=
  if w0.extractLsb' 24 2 ≠ 0#2 then .error .reservedBits
  else if w0.getLsbD 27 = false ∧ w0.extractLsb' 16 8 ≠ 0#8 then .error .commandByteWithoutC
  else if w0.getLsbD 26 = false ∧ lenField w0 ≠ 0#16 then .error .lengthWithoutD
  else
    match payload (lenField w0).toNat ops with
    | .error e => .error e
    | .ok bytes =>
      .ok (.tx (if w0.getLsbD 27 then some (w0.extractLsb' 16 8) else none)
        (if w0.getLsbD 26 then some bytes else none))

/-- Format `I` (30 R81): every immediate is legal. -/
def decodeSetrot (w0 : Word) : Except DecodeError Instr := .ok (.setrot (w0.extractLsb' 0 28))

/-- Format `W` (30 R81). -/
def decodeSetwin (w0 : Word) : List Word → Except DecodeError Instr
  | [] => .error .truncated
  | w1 :: _ =>
    if w0.extractLsb' 16 12 ≠ 0#12 then .error .reservedBits
    else .ok (.setwin (w0.extractLsb' 0 16) (w1.extractLsb' 16 16) (w1.extractLsb' 0 16))

/-- Format `O` (30 R81). -/
def decodeSetofs (w0 : Word) : Except DecodeError Instr :=
  if w0.extractLsb' 16 11 ≠ 0#11 then .error .reservedBits
  else if w0.getLsbD 27 then
    if w0.extractLsb' 0 16 ≠ 0#16 then .error .offsetWithDisable else .ok (.setofs none)
  else .ok (.setofs (some (w0.extractLsb' 0 16)))

/-- Format `R` (30 R81); entry `k` of the table is `TBL[3k+2 : 3k]` (30 R82). -/
def decodeRegdev (w0 : Word) : Except DecodeError Instr :=
  if w0.extractLsb' 13 15 ≠ 0#15 then .error .reservedBits
  else .ok (.regdev (decodeCapability (w0.getLsbD 12)) (w0.extractLsb' 0 3) (w0.extractLsb' 3 3)
    (w0.extractLsb' 6 3) (w0.extractLsb' 9 3))

/-- Format `X` (30 R81). -/
def decodeSetxf (w0 : Word) : Except DecodeError Instr :=
  if w0.extractLsb' 20 8 ≠ 0#8 ∨ w0.extractLsb' 6 10 ≠ 0#10 ∨ w0.extractLsb' 3 1 ≠ 0#1 then
    .error .reservedBits
  else .ok (.setxf (w0.extractLsb' 16 4) (w0.extractLsb' 4 2) (w0.extractLsb' 0 3))

/-- Format `Q` (30 R81). -/
def decodeXform (w0 : Word) : List Word → Except DecodeError Instr
  | [] => .error .truncated
  | w1 :: _ =>
    if w0.extractLsb' 20 8 ≠ 0#8 ∨ w0.extractLsb' 0 16 ≠ 0#16 then .error .reservedBits
    else .ok (.xform (w0.extractLsb' 16 4) (w1.extractLsb' 16 16) (w1.extractLsb' 0 16))

/-- Format `M` (30 R81). -/
def decodeMappt (w0 : Word) : List Word → Except DecodeError Instr
  | [] => .error .truncated
  | w1 :: _ =>
    if w0.extractLsb' 0 28 ≠ 0#28 then .error .reservedBits
    else .ok (.mappt (w1.extractLsb' 16 16) (w1.extractLsb' 0 16))

/-- Format `B` (30 R81). -/
def decodeBlit (w0 : Word) : List Word → Except DecodeError Instr
  | w1 :: w2 :: w3 :: ops =>
    if w0.extractLsb' 0 28 ≠ 0#28 then .error .reservedBits
    else
      match payload w3.toNat ops with
      | .error e => .error e
      | .ok bytes =>
        .ok (.blit (w1.extractLsb' 16 16) (w1.extractLsb' 0 16) (w2.extractLsb' 16 16)
          (w2.extractLsb' 0 16) bytes)
  | _ => .error .truncated

/-- The command a list of words stands for (30 R83, R85, R86). Total on any words; the words are
those of one command as `commandLength` frames it, and words after them are not read. -/
def decodeCommand : List Word → Except DecodeError Instr
  | [] => .error .truncated
  | w0 :: ops =>
    match (opcode w0).toNat with
    | 0x1 => decodePinsel w0
    | 0x2 => decodeBare w0 .build
    | 0x3 => decodeTx w0 ops
    | 0x4 => decodeSetrot w0
    | 0x5 => decodeBare w0 .getrot
    | 0x6 => decodeSetwin w0 ops
    | 0x7 => decodeSetofs w0
    | 0x8 => decodeBare w0 .getofs
    | 0x9 => decodeRegdev w0
    | 0xA => decodeSetxf w0
    | 0xB => decodeXform w0 ops
    | 0xC => decodeMappt w0 ops
    | 0xD => decodeBlit w0 ops
    | 0xE => decodeBare w0 .compose
    | _ => .error .reservedOpcode

/-! ### The encoder -/

/-- Four payload bytes as a word, byte 0 in the low bits (20 R54). -/
def bytesWord (b0 b1 b2 b3 : Byte) : Word := asWord (b3 ++ b2 ++ b1 ++ b0)

/-- The payload words of a list of bytes, the last one padded with zero bytes (20 R54, 30 R89). -/
def packBytes : List Byte → List Word
  | [] => []
  | [b0] => [bytesWord b0 0 0 0]
  | [b0, b1] => [bytesWord b0 b1 0 0]
  | [b0, b1, b2] => [bytesWord b0 b1 b2 0]
  | b0 :: b1 :: b2 :: b3 :: bs => bytesWord b0 b1 b2 b3 :: packBytes bs

/-- The ROLE field (30 R82). -/
def encodeRole (role : Role) : BitVec 4 := BitVec.ofNat 4 role.index.val

/-- The CAP bit (30 R82). -/
def encodeCapability : Capability → BitVec 1
  | .pointer => 0#1
  | .touch => 1#1

/-- The words of a well-formed command (30 R81, R83). -/
def encode : Instr → List Word
  | .pinsel role pol pin =>
    [asWord (1#4 ++ encodeRole role ++ BitVec.ofBool pol ++ 0#15 ++ pin)]
  | .build => [asWord (2#4 ++ 0#28)]
  | .tx cmd data =>
    asWord (3#4 ++ BitVec.ofBool cmd.isSome ++ BitVec.ofBool data.isSome ++ 0#2 ++ cmd.getD 0 ++
      BitVec.ofNat 16 (data.getD []).length) :: packBytes (data.getD [])
  | .setrot imm => [asWord (4#4 ++ imm)]
  | .getrot => [asWord (5#4 ++ 0#28)]
  | .setwin tfa vsa bfa => [asWord (6#4 ++ 0#12 ++ tfa), asWord (vsa ++ bfa)]
  | .setofs ofs => [asWord (7#4 ++ BitVec.ofBool ofs.isNone ++ 0#11 ++ ofs.getD 0)]
  | .getofs => [asWord (8#4 ++ 0#28)]
  | .regdev cap t0 t1 t2 t3 =>
    [asWord (9#4 ++ 0#15 ++ encodeCapability cap ++ t3 ++ t2 ++ t1 ++ t0)]
  | .setxf dev idx xf => [asWord (10#4 ++ 0#8 ++ dev ++ 0#10 ++ idx ++ 0#1 ++ xf)]
  | .xform dev x y => [asWord (11#4 ++ 0#8 ++ dev ++ 0#16), asWord (x ++ y)]
  | .mappt lx ly => [asWord (12#4 ++ 0#28), asWord (lx ++ ly)]
  | .blit bx bY bw bh bytes =>
    [asWord (13#4 ++ 0#28), asWord (bx ++ bY), asWord (bw ++ bh),
      BitVec.ofNat 32 bytes.length] ++ packBytes bytes
  | .compose => [asWord (14#4 ++ 0#28)]

/-! ### One word of the opcode table -/

/-- The low `nbits` bits of `w` as words, first word in the low bits. -/
def tableWords (nbits w : Nat) : List Word :=
  (List.range ((nbits + 31) / 32)).map fun k => BitVec.ofNat 32 ((w % 2 ^ nbits) >>> (32 * k))

/-- The whole command whose low bits are `w`, every word the bits do not reach being zero, up to
the command's own length (30 R84). -/
def tableCommand (nbits w : Nat) : List Word :=
  match commandLength (tableWords nbits w ++ List.replicate 4 0) with
  | some n => (tableWords nbits w ++ List.replicate n 0).take n
  | none => tableWords nbits w

/-- The command the decoder reads from an opcode-table word. -/
def decodeTableWord (nbits w : Nat) : Option Instr :=
  match decodeCommand (tableCommand nbits w) with
  | .ok i => some i
  | .error _ => none

end Sys2Proof
end

