-- ==== Sys2Proof/Machine/Fetch.lean ====
section
/-! DEFINITION. Fetching the words of one command from the stream, holding while they have not all
arrived (spec 20 R50 to R52, 30 R84, R85). -/

namespace Sys2Proof.Machine

/-- What the block finds when it wants a command. -/
inductive Fetched where
  /-- at a command boundary with no word in the stream (20 R52) -/
  | idle
  /-- inside a command whose words have not all arrived (20 R52) -/
  | incomplete
  /-- every word of one command (30 R85) -/
  | command (ws : List Word)
deriving DecidableEq, Repr

/-- The words of the command at hand that are in the block or in the stream: those already fetched,
then `S[CP], S[CP+1], ...` (20 R50). -/
def State.wordsAhead (s : State) : List Word := s.held ++ s.stream.drop s.cp

/-- The command at the head of a list of words (30 R84, R85). -/
def frameCommand (ws : List Word) : Fetched :=
  if ws = [] then .idle
  else
    match commandLength ws with
    | none => .incomplete
    | some n => if n ≤ ws.length then .command (ws.take n) else .incomplete

/-- The command the block is to execute next. -/
def State.fetched (s : State) : Fetched := frameCommand s.wordsAhead

/-- Every word in the stream fetched and the block holding inside the command: `WAITING <- 1`
(20 R52). -/
def State.hold (s : State) : State :=
  { s with held := s.wordsAhead, cp := s.cp + (s.stream.drop s.cp).length, waiting := true }

/-- The last word of an `n`-word command fetched: `CP` is past it and `WAITING` is clear
(20 R51, R52). -/
def State.consume (s : State) (n : Nat) : State :=
  { s with held := [], cp := s.cp + (n - s.held.length), waiting := false }

/-- The block is at a command boundary with nothing left in the stream: the end of a run
(20 R52). -/
def State.endOfRun (s : State) : Bool := s.held.isEmpty && decide (s.cp = s.stream.length)

end Sys2Proof.Machine
end

