-- ==== Sys2Proof/Machine/Step.lean ====
section
/-! DEFINITION. One step of the block (spec 20 R50 to R52, 30 R85, 60 R242). -/

namespace Sys2Proof.Machine

/-- One step: the next command of the stream executed whole. An idle block keeps its state
(60 R257), a block inside a command whose words have not all arrived holds (20 R52), and an illegal
command ends with `raise Error(ILLEGAL)` past its last word (30 R86). -/
def step (s : State) : Host.Outcome State Fault Refusal :=
  match s.fetched with
  | .idle => .next s
  | .incomplete => .next s.hold
  | .command ws =>
    match decodeCommand ws with
    | .ok i => exec i (s.consume ws.length)
    | .error _ => .next ((s.consume ws.length).raise .illegal)

/-- The state with the command of an opcode-table word in the stream at `CP`, at a command
boundary: every word the bits do not reach is zero, up to the command's own length. The words
before `CP` and those after the command stay. -/
def State.withFetchWord (s : State) (nbits w : Nat) : State :=
  { s with
    stream := (s.stream ++ List.replicate (s.cp - s.stream.length) 0).take s.cp ++
      tableCommand nbits w ++ s.stream.drop (s.cp + (tableCommand nbits w).length)
    held := [] }

end Sys2Proof.Machine
end

