-- ==== Sys2Proof/Machine/Gpio.lean ====
section
/-! DEFINITION. The reference port model of the GPIO peripheral (spec 20 R57): what a list of GPIO
writes does to output latches. The latches are outside the block and not in State (10 R39); their
values before the first write are unspecified, so statements hold for every initial value (log
entry 10). -/

namespace Sys2Proof.Machine

/-- The output latches, `OUT[g]` as word `g`. For the 16-bit family the latch of a port is bits
0 to 15 of its word. -/
abbrev Latches := Nat → Word

/-- One GPIO write at the latches (20 R57). For the 16-bit family a set bit wins over the clear bit
of the same pin (PRESUMED, log entry 11; the block never writes such a word). -/
def portWrite (p : Params) (out : Latches) (w : GpioWrite) : Latches := fun g =>
  if g < p.numGroups then
    match p.family with
    | .pins32 =>
      if w.addr = p.setAddr g then out g ||| w.value
      else if w.addr = p.clrAddr g then out g &&& ~~~w.value
      else out g
    | .pins16 =>
      if w.addr = p.bsrrAddr g then (out g &&& ~~~(w.value >>> 16)) ||| (w.value &&& 0xFFFF#32)
      else out g
  else out g

/-- The latches after a list of writes, oldest first (20 R58). -/
def portRun (p : Params) (out : Latches) (ws : List GpioWrite) : Latches :=
  ws.foldl (portWrite p) out

/-- The level of pin `n`: bit `n mod PPP` of `OUT[n div PPP]` (20 R57). -/
def pinLevel (p : Params) (out : Latches) (n : Byte) : Bool :=
  (out (pinGroup p n)).getLsbD (pinBit p n)

end Sys2Proof.Machine
end

