-- ==== Sys2Proof/Machine/Reset.lean ====
section
/-! DEFINITION. The platform's reset that finds a command in progress (spec 70 R270). -/

namespace Sys2Proof.Machine

/-- The GPIO writes the next step issues, in the order it issues them (20 R58): what it appends to
`T` (20 R55). -/
def State.nextWrites (s : State) : List GpioWrite :=
  match step s with
  | .next t => t.trace.drop s.trace.length
  | .fault _ => []
  | .refused _ => []

/-- The platform's reset after the command in progress has issued the first `n` of its GPIO writes
(70 R270): the writes issued are not undone, the others never happen, and every other effect of the
command, whether it had happened or not, is overwritten by a reset value (70 R271, log entry 25). -/
def State.resetDuring (s : State) (n : Nat) : State :=
  (s.emit (s.nextWrites.take n) s.last).platformReset

end Sys2Proof.Machine
end

