-- ==== Sys2Proof/Machine/Flags.lean ====
section
/-! DEFINITION. The status flags outside a command's own end (spec 10 R32, R34, R36): the words of
`STATUS` and `BUS` and the host's write-one-to-clear of `ANY_ERR`. (`LAST_ERR` and `ANY_ERR` at a
command's end are `State.raise` and `State.complete` of Ops.) -/

namespace Sys2Proof.Machine

/-- `STATUS` (10 R34): `LAST_ERR`, `ANY_ERR`, `WAITING`. -/
def State.statusWord (s : State) : Word :=
  asWord (0#26 ++ BitVec.ofBool s.waiting ++ BitVec.ofBool s.anyErr ++ s.lastErr.code)

/-- `BUS` (10 R34). -/
def State.busWord (s : State) : Word :=
  asWord (0#16 ++ s.last.getD 0 ++ BitVec.ofNat 4 s.ng ++ 0#1 ++ BitVec.ofBool s.last.isSome ++
    BitVec.ofBool s.busFatal ++ BitVec.ofBool s.busReady)

/-- A host write of `v` to `STATUS`: bit 4 clears `ANY_ERR`, every other bit is ignored (10 R36). -/
def State.clearStatus (s : State) (v : Word) : State :=
  { s with anyErr := s.anyErr && !v.getLsbD 4 }

end Sys2Proof.Machine
end

