-- ==== Sys2Proof/Machine/Window.lean ====
section
/-! DEFINITION. The host register window (spec 10 R34 to R37, 60 R259). -/

namespace Sys2Proof.Machine

/-- `CONFIG` (10 R34). -/
def State.configWord (s : State) : Word :=
  asWord (BitVec.ofNat 8 (s.par.numPins - 1) ++ 0#3 ++ BitVec.ofNat 5 s.par.numDevices ++
    BitVec.ofNat 8 s.par.bpp ++ 0#6 ++ BitVec.ofBool s.par.bswap ++
    BitVec.ofBool (decide (s.par.family = .pins32)))

/-- `GEOM` (10 R34). -/
def State.geomWord (s : State) : Word :=
  asWord (BitVec.ofNat 16 s.lw ++ BitVec.ofNat 16 s.lh)

/-- `ROTR` (10 R34). -/
def State.rotWord (s : State) : Word := BitVec.ofNat 32 s.rot.index.val

/-- `WIN0` (10 R34). -/
def State.win0Word (s : State) : Word := asWord (s.tfa ++ s.vsa)

/-- `WIN1` (10 R34). -/
def State.win1Word (s : State) : Word := asWord (0#16 ++ s.bfa)

/-- `OFSR` (10 R34). -/
def State.ofsWord (s : State) : Word :=
  asWord (0#15 ++ BitVec.ofBool s.ofs.isNone ++ s.ofs.getD 0)

/-- The number of slots below `NUM_DEVICES` with `valid = 1` (10 R34). -/
def State.deviceCount (s : State) : Nat :=
  (List.finRange 16).countP fun d => decide (d.val < s.par.numDevices) && s.devices[d.val].valid

/-- The register at an offset of the window (10 R34); `CMD` and the reserved offsets read 0. -/
def State.register (s : State) (offset : Nat) : Word :=
  if offset = 0x04 then s.statusWord
  else if offset = 0x08 then s.result
  else if offset = 0x0C then s.configWord
  else if offset = 0x10 then s.busWord
  else if offset = 0x14 then s.geomWord
  else if offset = 0x18 then s.rotWord
  else if offset = 0x1C then s.win0Word
  else if offset = 0x20 then s.win1Word
  else if offset = 0x24 then s.ofsWord
  else if offset = 0x28 then BitVec.ofNat 32 s.deviceCount
  else 0

/-- Enough steps for every command already written: each step that executes one uses up at least
one of the words ahead (30 R84). -/
def State.pending (s : State) : Nat := s.wordsAhead.length + 1

/-- Every command whose words have all been written, executed (10 R37). -/
def State.settle (s : State) : Host.Outcome State Fault Refusal :=
  Sys2Proof.core.run s.pending s

/-- The window offset of a host access of `width` bytes at `addr`; an access that is not an aligned
32-bit access is refused (10 R35), and so is an address outside the window (log entry 15). -/
def windowOffset (p : Params) (addr : Word) (width : Nat) : Except Refusal Nat :=
  if width ≠ 4 ∨ addr.toNat % 4 ≠ 0 then .error .hostAccess
  else if addr.toNat < p.blockBase.toNat ∨ p.blockBase.toNat + 0x40 ≤ addr.toNat then
    .error .outsideWindow
  else .ok (addr.toNat - p.blockBase.toNat)

/-- A host read: the register after every command already written has completed (10 R37). The
outcome's next state is that settled state; the read itself changes nothing (10 R35). -/
def hostRead (s : State) (addr : Word) (width : Nat) :
    Host.Outcome (State × Word) Fault Refusal :=
  match windowOffset s.par addr width with
  | .error r => .refused r
  | .ok offset =>
    match s.settle with
    | .next t => .next (t, t.register offset)
    | .fault r => .fault r
    | .refused r => .refused r

/-- A host write: `CMD` appends to the stream (10 R37), `STATUS` clears `ANY_ERR` after the
commands already written (10 R36, log entry 14), and no other offset has an effect (10 R35). -/
def hostWrite (s : State) (addr : Word) (width : Nat) (v : Word) :
    Host.Outcome State Fault Refusal :=
  match windowOffset s.par addr width with
  | .error r => .refused r
  | .ok offset =>
    if offset = 0x00 then .next { s with stream := s.stream ++ [v] }
    else if offset = 0x04 then
      match s.settle with
      | .next t => .next (t.clearStatus v)
      | .fault r => .fault r
      | .refused r => .refused r
    else .next s

end Sys2Proof.Machine
end

