-- ==== Sys2Proof/Safety.lean ====
section
/-! DEFINITION. What counts as a sound state and a sound run of the block: the invariant of spec 10
R38 with the facts the other rules state of every reachable state, the states a host can bring the
block to, and the eliminator's invariant of 42 R149. -/

namespace Sys2Proof.Machine

/-- The masks of one spanned group (10 R25): the group is one of the instance's, the table has an
entry per byte value, `SETM` and `CLRM` split `FULL`, and `FULL` has only bits `0 .. PPP-1`. -/
structure LutGroup.Sound (p : Params) (g : LutGroup) : Prop where
  grp_lt : g.grp < p.numGroups
  lut_length : g.lut.length = 256
  masks : ∀ e ∈ g.lut, e.setMask ||| e.clrMask = g.full ∧ e.setMask &&& e.clrMask = 0#32
  full_lt : g.full.toNat < 2 ^ p.family.pins

/-- The six writes of a RegisterMap (10 R24). -/
def RegisterMap.writes (c : RegisterMap) : List GpioWrite :=
  [c.cs.act, c.cs.deact, c.dc.act, c.dc.deact, c.wr.act, c.wr.deact]

/-- Every written byte of a buffer lies below its size (20 R60, R61). -/
def Memory.within (m : Memory) (size : Nat) : Prop := ∀ c ∈ m.cells, c.1 < size

/-- The invariant of the block: 10 R38, and what 10 R21, R25, R30, R32, 20 R52, R56, R60, R61 say of
every reachable state. -/
structure State.Inv (s : State) : Prop where
  /-- the parameters are legal (00 R7) -/
  legal : s.par.Legal
  /-- `TFA + VSA + BFA = H0` (10 R38) -/
  window : s.tfa.toNat + s.vsa.toNat + s.bfa.toNat = s.par.h0
  /-- `OFS = DISABLED` or `OFS < VSA` (10 R38) -/
  offset : ∀ o, s.ofs = some o → o.toNat < s.vsa.toNat
  /-- not both `BUS_READY` and `BUS_FATAL` (10 R38) -/
  bus : ¬(s.busReady = true ∧ s.busFatal = true)
  /-- `LAST = NONE` whenever `BUS_READY = 0` (10 R38) -/
  lastNone : s.busReady = false → s.last = none
  /-- `1 <= NG <= 8` while `BUS_READY = 1` (10 R38) -/
  ngRange : s.busReady = true → 1 ≤ s.ng ∧ s.ng ≤ 8
  /-- one table per spanned group while `BUS_READY = 1` (10 R25) -/
  ngGroups : s.busReady = true → s.groups.length = s.ng
  /-- the group numbers strictly ascend (10 R25) -/
  ascending : s.busReady = true → s.groups.Pairwise fun g h => g.grp < h.grp
  /-- the masks satisfy 10 R25 (10 R38) -/
  masks : s.busReady = true → ∀ g ∈ s.groups, g.Sound s.par
  /-- control writes go to GPIO registers of the instance (20 R56) -/
  control : s.busReady = true → ∀ w ∈ s.ctl.writes, w.addr ∈ s.par.gpioAddrs
  /-- so has every write of the trace (20 R56) -/
  traced : ∀ w ∈ s.trace, w.addr ∈ s.par.gpioAddrs
  /-- `BB` is in canonical form -/
  bbWf : s.bb.wf
  /-- `BB` is `LW` by `LH` pixels (10 R38) -/
  bbSize : s.bb.within (s.lw * s.lh * s.par.bytesPerPixel)
  /-- `PF` is in canonical form -/
  pfWf : s.pf.wf
  /-- `PF` is `W0` by `H0` pixels (20 R61) -/
  pfSize : s.pf.within (s.par.w0 * s.par.h0 * s.par.bytesPerPixel)
  /-- no slot at or above `NUM_DEVICES` is registered (10 R30) -/
  slots : ∀ d : Fin 16, s.par.numDevices ≤ d.val → s.devices[d.val].valid = false
  /-- the block has fetched only words the host has written (20 R50) -/
  pointer : s.cp ≤ s.stream.length
  /-- the words held are the last ones fetched (20 R50, R52) -/
  heldWords : s.held = (s.stream.take s.cp).drop (s.cp - s.held.length)
  /-- they are the beginning of a command that is not complete (20 R52) -/
  heldOpen : s.held = [] ∨ frameCommand s.held = .incomplete
  /-- `WAITING` is 1 exactly while the block holds inside a command (10 R32) -/
  waitingHeld : s.waiting = true ↔ s.held ≠ []

/-- The states a host and the platform can bring an instance to: reset, between commands or in the
middle of one (70 R270), a step of the block, and a host write to any register of the window
(60 R259). -/
inductive Reachable (p : Params) : State → Prop where
  | reset : Reachable p (State.resetOf p)
  | step {s t : State} : Reachable p s → Machine.step s = .next t → Reachable p t
  | write {s t : State} (addr : Word) (width : Nat) (v : Word) :
      Reachable p s → hostWrite s addr width v = .next t → Reachable p t
  | platformReset {s : State} : Reachable p s → Reachable p s.platformReset
  | resetDuring {s : State} (n : Nat) : Reachable p s → Reachable p (s.resetDuring n)

/-- A control write changes no data pin of any spanned group, whatever the latches hold (42 R149:
"control-pin writes (`ctl`) carry one bit of a control pin"). -/
def State.ControlSparesData (s : State) : Prop :=
  ∀ w ∈ s.ctl.writes, ∀ g ∈ s.groups, ∀ out : Latches,
    portWrite s.par out w g.grp &&& g.full = out g.grp &&& g.full

/-- The claim of 42 R149: whenever `LAST = v`, the data pins of every spanned group are at the bits
of `v`, whatever the latches held before the block's first write. -/
def State.DataLinesShowLast (s : State) : Prop :=
  ∀ v, s.last = some v → ∀ g ∈ s.groups, ∀ out : Latches,
    portRun s.par out s.trace g.grp &&& g.full = (g.entry v).setMask

/-- The invariant that carries 42 R149 through every step. The exclusive-writer premise (70 R280)
is in the port model: nothing but the trace writes the latches. -/
structure State.BusInv (s : State) : Prop where
  inv : s.Inv
  control : s.busReady = true → s.ControlSparesData
  lines : s.busReady = true → s.DataLinesShowLast

/-- The block has executed every command whose words have all been written (10 R37): it is idle or
holds inside a command. -/
def State.Settled (s : State) : Prop := ∀ ws, s.fetched ≠ .command ws

end Sys2Proof.Machine
end

