-- ==== Sys2Proof/Certificates/Slice0/Obligations.lean ====
section
/-! DEFINITION. The statements for the provers. Each formalises rules of spec/ that its docstring
names; the definitions under `Sys2Proof.Spec` write out tables and pseudocode of the rules in their own
form, apart from the model's. -/

open Sys2Proof Sys2Proof.Machine

namespace Sys2Proof.Spec

/-- The reserved-zero bits of word 0 for each opcode: the `mask` of the opcode table less its
opcode bits (30 R81, R87). -/
def reservedMask : Nat → Word
  | 0x1 => 0x007FFF00#32
  | 0x2 => 0x0FFFFFFF#32
  | 0x3 => 0x03000000#32
  | 0x4 => 0x00000000#32
  | 0x5 => 0x0FFFFFFF#32
  | 0x6 => 0x0FFF0000#32
  | 0x7 => 0x07FF0000#32
  | 0x8 => 0x0FFFFFFF#32
  | 0x9 => 0x0FFFE000#32
  | 0xA => 0x0FF0FFC8#32
  | 0xB => 0x0FF0FFFF#32
  | 0xC => 0x0FFFFFFF#32
  | 0xD => 0x0FFFFFFF#32
  | 0xE => 0x0FFFFFFF#32
  | _ => 0x00000000#32

/-- `w[31:28]` as a number. -/
def op (w0 : Word) : Nat := w0.toNat / 2 ^ 28

/-- The conditions under which 30 R86 calls a command illegal; they read word 0 only. -/
abbrev Illegal (w0 : Word) : Prop :=
  op w0 = 0 ∨ op w0 = 15 ∨ w0 &&& reservedMask (op w0) ≠ 0#32 ∨
    (op w0 = 1 ∧ (11 ≤ w0.toNat / 2 ^ 24 % 16 ∨
      (w0.toNat / 2 ^ 24 % 16 ≤ 7 ∧ w0.toNat / 2 ^ 23 % 2 = 1))) ∨
    (op w0 = 3 ∧ ((w0.toNat / 2 ^ 27 % 2 = 0 ∧ w0.toNat / 2 ^ 16 % 256 ≠ 0) ∨
      (w0.toNat / 2 ^ 26 % 2 = 0 ∧ w0.toNat % 65536 ≠ 0))) ∨
    (op w0 = 7 ∧ w0.toNat / 2 ^ 27 % 2 = 1 ∧ w0.toNat % 65536 ≠ 0)

/-- `L` of 30 R84, from word 0 and, for BLIT, word 3. -/
def lengthOf (w0 w3 : Word) : Nat :=
  if op w0 = 3 then 1 + (w0.toNat % 65536 + 3) / 4
  else if op w0 = 6 ∨ op w0 = 0xB ∨ op w0 = 0xC then 2
  else if op w0 = 0xD then 4 + (w3.toNat + 3) / 4
  else 1

/-- The fixed words of a command (30 R83). -/
def fixedWords : Instr → Nat
  | .setwin _ _ _ => 2
  | .xform _ _ _ => 2
  | .mappt _ _ => 2
  | .blit _ _ _ _ _ => 4
  | _ => 1

/-- The payload bytes of a command (30 R83). -/
def payloadOf : Instr → List Byte
  | .tx _ data => data.getD []
  | .blit _ _ _ _ bytes => bytes
  | _ => []

/-- The codes each command can end with once decoded: `OK` and the column "raised by" of 60 R240. -/
def mayReport : Instr → List ErrCode
  | .pinsel _ _ _ => [.ok]
  | .build => [.ok, .fatal, .configBusWidth, .configMissingControl, .configInvalidPin,
      .configDuplicatePin]
  | .tx _ _ => [.ok, .fatal, .notConfigured]
  | .setrot _ => [.ok, .invalidRotation]
  | .getrot => [.ok]
  | .setwin _ _ _ => [.ok, .configScrollExtents]
  | .setofs _ => [.ok, .invalidOffset]
  | .getofs => [.ok]
  | .regdev _ _ _ _ _ => [.ok, .deviceTableFull]
  | .setxf _ _ _ => [.ok, .invalidDevice]
  | .xform _ _ _ => [.ok, .invalidDevice]
  | .mappt _ _ => [.ok, .outOfBounds]
  | .blit _ _ _ _ _ => [.ok, .outOfBounds, .bufferSizeMismatch]
  | .compose => [.ok]

/-- The commands that produce an output in `RESULT` (10 R31). -/
def producesResult : Instr → Bool
  | .getrot => true
  | .getofs => true
  | .regdev _ _ _ _ _ => true
  | .xform _ _ _ => true
  | .mappt _ _ => true
  | _ => false

/-- The staged data pin of role `Dr`. -/
def dataPin (s : State) (r : Fin 8) : Byte := s.stage[r.val].pin

/-- The four checks of `BUILD` that 41 R113 makes after `FATAL`, as conditions on the staging. -/
def BusNotWide (s : State) : Prop := ∃ r : Fin 11, r.val < 8 ∧ s.stage[r.val].valid = false

/-- A control role is not staged (41 R113). -/
def ControlMissing (s : State) : Prop := ∃ r : Fin 11, 8 ≤ r.val ∧ s.stage[r.val].valid = false

/-- A staged pin is out of range (41 R113). -/
def PinOutOfRange (s : State) : Prop :=
  ∃ r : Fin 11, s.par.numPins ≤ s.stage[r.val].pin.toNat

/-- Two roles have the same pin (41 R113). -/
def PinTwice (s : State) : Prop :=
  ∃ r q : Fin 11, r ≠ q ∧ s.stage[r.val].pin = s.stage[q.val].pin

/-- The state a failing check of `BUILD` leaves (41 R114, 60 R242). That the masks and tables, unread
while `BUS_READY = 0`, are those of before is the model's choice (log entry 7, DESIGN CHOICE). -/
def dead (s : State) (e : ErrCode) : State :=
  { s with busReady := false, busFatal := true, ng := 0, last := none, lastErr := e, anyErr := true }

/-- The state `raise Error(e)` leaves (60 R242). -/
def failed (s : State) (e : ErrCode) : State := { s with lastErr := e, anyErr := true }

/-- `groups` is the lookup table 41 R118 constructs from eight data pins: one entry per distinct
group in ascending order, `FULL` the OR of the group's bits, `SETM` the OR of those whose bit of `v`
is 1, `CLRM = FULL ^ SETM`. -/
def IsLut (p : Params) (pin : Fin 8 → Byte) (groups : List LutGroup) : Prop :=
  (groups.Pairwise fun g h => g.grp < h.grp) ∧
  (∀ n, (∃ g ∈ groups, g.grp = n) ↔ ∃ r, (pin r).toNat / p.family.pins = n) ∧
  ∀ g ∈ groups,
    (∀ b, g.full.getLsbD b = true ↔
      ∃ r, (pin r).toNat / p.family.pins = g.grp ∧ (pin r).toNat % p.family.pins = b) ∧
    ∀ v : Byte,
      (∀ b, (g.entry v).setMask.getLsbD b = true ↔
        ∃ r, v.getLsbD r.val = true ∧ (pin r).toNat / p.family.pins = g.grp ∧
          (pin r).toNat % p.family.pins = b) ∧
      (g.entry v).clrMask = g.full ^^^ (g.entry v).setMask

/-- The eliminator while a transaction runs: the writes made so far and `LAST`. -/
structure Line where
  writes : List GpioWrite
  last : Option Byte

/-- `ctl(w)` (42 R140). -/
def ctl (x : Line) (w : GpioWrite) : Line := { x with writes := x.writes ++ [w] }

/-- `datawrite(i, v)` (42 R146). -/
def datawrite (s : State) (v : Byte) (x : Line) (i : Nat) : Line :=
  match s.groups[i]? with
  | none => x
  | some g =>
    match s.par.family with
    | .pins32 =>
      ctl (ctl x ⟨s.par.setAddr g.grp, (g.entry v).setMask⟩)
        ⟨s.par.clrAddr g.grp, (g.entry v).clrMask⟩
    | .pins16 =>
      ctl x ⟨s.par.bsrrAddr g.grp, (g.entry v).setMask ||| (g.entry v).clrMask <<< 16⟩

/-- `strobe(v)` (42 R145), write by write. -/
def strobe (s : State) (x : Line) (v : Byte) : Line :=
  let x1 := ctl x s.ctl.wr.deact
  let x2 :=
    if x1.last = none ∨ x1.last ≠ some v then
      { (List.range s.ng).foldl (datawrite s v) x1 with last := some v }
    else x1
  ctl x2 s.ctl.wr.act

/-- `TX` (42 R141), write by write, from `LAST` of the state. -/
def transmit (s : State) (cmd : Option Byte) (data : Option (List Byte)) : Line :=
  let x1 := ctl ⟨[], s.last⟩ s.ctl.cs.act
  let x2 :=
    match cmd with
    | none => x1
    | some c => strobe s (ctl x1 s.ctl.dc.deact) c
  let x3 :=
    match data with
    | none => x2
    | some bs => bs.foldl (strobe s) (ctl x2 s.ctl.dc.act)
  ctl x3 s.ctl.cs.deact

/-- How many bytes of a sequence differ from the byte before them, the first from `last`: the bytes
that are not elided (42 R145, R147). -/
def written : Option Byte → List Byte → Nat
  | _, [] => 0
  | last, v :: vs => (if last = some v then 0 else 1) + written (some v) vs

/-- `CONFIG` of 10 R34 as a sum of the parameters. -/
def config (p : Params) : Nat :=
  (if p.family = .pins32 then 1 else 0) + (if p.bswap then 2 else 0) + 2 ^ 8 * p.bpp +
    2 ^ 16 * p.numDevices + 2 ^ 24 * (p.numPins - 1)

/-- What the window reads right after reset (70 R272, 10 R34), as `(offset, value)`. -/
def resetReads (p : Params) : List (Nat × Nat) :=
  let turned := (p.rot0 % 360) / 90 = 1 ∨ (p.rot0 % 360) / 90 = 3
  [(0x00, 0), (0x04, 0), (0x08, 0),
    (0x0C, config p), (0x10, 0),
    (0x14, if turned then 2 ^ 16 * p.h0 + p.w0 else 2 ^ 16 * p.w0 + p.h0),
    (0x18, ((p.rot0 % 360) / 90).toNat),
    (0x1C, 2 ^ 16 * p.tfa0 + p.vsa0), (0x20, p.bfa0), (0x24, 0x00010000), (0x28, 0),
    (0x2C, 0), (0x30, 0), (0x34, 0), (0x38, 0), (0x3C, 0)]

/-- The code of an error (60 R240). -/
def codeOf : ErrCode → Nat
  | .ok => 0
  | .illegal => 1
  | .configBusWidth => 2
  | .configInvalidPin => 3
  | .configDuplicatePin => 4
  | .configMissingControl => 5
  | .configScrollExtents => 6
  | .invalidRotation => 7
  | .bufferSizeMismatch => 8
  | .outOfBounds => 9
  | .notConfigured => 10
  | .invalidOffset => 11
  | .invalidDevice => 12
  | .deviceTableFull => 13
  | .fatal => 14

/-- The sixteen registers of the window as sums of their fields (10 R34), as `(offset, value)`. -/
def windowReads (s : State) : List (Nat × Nat) :=
  [(0x00, 0),
    (0x04, codeOf s.lastErr + (if s.anyErr then 16 else 0) + (if s.waiting then 32 else 0)),
    (0x08, s.result.toNat),
    (0x0C, config s.par),
    (0x10, (if s.busReady then 1 else 0) + (if s.busFatal then 2 else 0) +
      (if s.last = none then 0 else 4) + 16 * s.ng + 256 * (s.last.getD 0).toNat),
    (0x14, 65536 * s.lw + s.lh),
    (0x18, s.rot.degrees / 90),
    (0x1C, 65536 * s.tfa.toNat + s.vsa.toNat),
    (0x20, s.bfa.toNat),
    (0x24, match s.ofs with
      | none => 65536
      | some o => o.toNat),
    (0x28, ((List.finRange 16).filter fun d =>
      decide (d.val < s.par.numDevices) && s.devices[d.val].valid).length),
    (0x2C, 0), (0x30, 0), (0x34, 0), (0x38, 0), (0x3C, 0)]

/-- The address of a window offset (10 R34). -/
def windowAddr (s : State) (offset : Nat) : Word := s.par.blockBase + BitVec.ofNat 32 offset

end Sys2Proof.Spec

/-! ### Encoding and framing -/

/-- 30 R81, R82, R84, 20 R54: the words of every well-formed command are framed as one command,
whatever follows them, and decode to that command. -/
def Obligations.EncodeThenDecode : Prop :=
  ∀ (i : Instr) (rest : List Word), i.wellFormed = true →
    frameCommand (encode i ++ rest) = .command (encode i) ∧ decodeCommand (encode i) = .ok i

/-- 30 R81, R85, R86: what decodes is a well-formed command, whose own encoding has the same length,
the same fixed words and the same payload bytes. No bit but the payload's padding is dropped. -/
def Obligations.DecodedCommandReencodes : Prop :=
  ∀ (ws : List Word) (i : Instr), commandLength ws = some ws.length → decodeCommand ws = .ok i →
    i.wellFormed = true ∧ (encode i).length = ws.length ∧
    (∀ k < Spec.fixedWords i, (encode i)[k]? = ws[k]?) ∧
    Spec.payloadOf i =
      (unpackBytes (ws.drop (Spec.fixedWords i))).take (Spec.payloadOf i).length

/-- 30 R86, R87: a complete command has no decoding exactly when R86 calls it illegal. -/
def Obligations.DecoderRefusesExactlyIllegal : Prop :=
  ∀ (w0 : Word) (ops : List Word), commandLength (w0 :: ops) = some (ops.length + 1) →
    ((∃ e, decodeCommand (w0 :: ops) = .error e) ↔ Spec.Illegal w0)

/-- Words of spec 95, and words written out from the formats of 30 R81 and the byte order of 20 R54,
decode to the commands they stand for: at least one for each of the eleven formats. -/
def Obligations.ExampleWordsDecode : Prop :=
  decodeCommand [0x19800006#32] = .ok (.pinsel .dc true 6) ∧
  decodeCommand [0x20000000#32] = .ok .build ∧
  decodeCommand [0x3C2A0003#32, 0x00003636#32] = .ok (.tx (some 0x2A) (some [0x36, 0x36, 0x00])) ∧
  decodeCommand [0x34000004#32, 0x44332211#32] = .ok (.tx none (some [0x11, 0x22, 0x33, 0x44])) ∧
  decodeCommand [0x4FFFFFA6#32] = .ok (.setrot (BitVec.ofInt 28 (-90))) ∧
  decodeCommand [0x60000001#32, 0x00040001#32] = .ok (.setwin 1 4 1) ∧
  decodeCommand [0x60000003#32, 0x00050007#32] = .ok (.setwin 3 5 7) ∧
  decodeCommand [0x70001234#32] = .ok (.setofs (some 0x1234)) ∧
  decodeCommand [0x78000000#32] = .ok (.setofs none) ∧
  decodeCommand [0x90001CE8#32] = .ok (.regdev .touch 0 5 3 6) ∧
  decodeCommand [0xA00F0026#32] = .ok (.setxf 15 2 6) ∧
  decodeCommand [0xB0000000#32, 0x00030001#32] = .ok (.xform 0 3 1) ∧
  decodeCommand [0xB00D0000#32, 0x8000FFFE#32] = .ok (.xform 13 0x8000 0xFFFE) ∧
  decodeCommand [0xC0000000#32, 0x00060002#32] = .ok (.mappt 6 2) ∧
  decodeCommand [0xD0000000#32, 0x00000000#32, 0x00020001#32, 0x00000002#32, 0x0000BBAA#32] =
    .ok (.blit 0 0 2 1 [0xAA, 0xBB]) ∧
  decodeCommand [0xD0000000#32, 0x00020005#32, 0x00030001#32, 0x00000005#32, 0xD4C3B2A1#32,
    0x000000E5#32] = .ok (.blit 2 5 3 1 [0xA1, 0xB2, 0xC3, 0xD4, 0xE5])

/-- 30 R84: the length depends only on the opcode, LEN of a TX, and word 3 of a BLIT. 30 R88: for every
opcode but BLIT's the first word is enough. -/
def Obligations.CommandLengthByOpcode : Prop :=
  (∀ (w0 w1 w2 w3 : Word) (rest : List Word),
    commandLength (w0 :: w1 :: w2 :: w3 :: rest) = some (Spec.lengthOf w0 w3)) ∧
  ∀ (w0 : Word) (rest : List Word), Spec.op w0 ≠ 0xD →
    commandLength (w0 :: rest) = some (Spec.lengthOf w0 0)

/-! ### Steps -/

/-- 30 R85: when the words at `CP` (after any already held) are a whole command that decodes to `i`,
the step is `i`'s meaning in the state whose `CP` is past its last word, nothing held, `WAITING`
clear. (The words held are the model's carrier of a begun command, log entry 4; one step is one whole
command, log entry 5.) -/
def Obligations.StepRunsDecodedCommand : Prop :=
  ∀ (s : State) (ws : List Word) (i : Instr), s.fetched = .command ws → decodeCommand ws = .ok i →
    step s = exec i
      { s with held := [], cp := s.cp + (ws.length - s.held.length), waiting := false }

/-- 30 R86: an illegal command ends with `ILLEGAL` and changes nothing but `LAST_ERR`, `ANY_ERR` and
`CP` (past its last word; the words held, log entry 4, and `WAITING` are part of fetching it). -/
def Obligations.IllegalCommandChangesStatusOnly : Prop :=
  ∀ (s : State) (w0 : Word) (ops : List Word), s.fetched = .command (w0 :: ops) →
    Spec.Illegal w0 →
    step s = .next
      { s with
        held := []
        cp := s.cp + (ops.length + 1 - s.held.length)
        waiting := false
        lastErr := .illegal
        anyErr := true }

/-- 20 R52: inside a command whose words have not all arrived the block fetches what there is, sets
`WAITING` and holds; nothing else changes. (That one step fetches all of them and keeps them in `held`
is the model's, log entries 4 and 5.) -/
def Obligations.StepHoldsUntilLastWord : Prop :=
  ∀ s : State, s.fetched = .incomplete →
    step s = .next
      { s with
        held := s.held ++ s.stream.drop s.cp
        cp := s.cp + (s.stream.length - s.cp)
        waiting := true }

/-- 60 R257, 20 R52: an idle block holds its state unchanged. (A step of an idle block is the model's,
log entry 5.) -/
def Obligations.IdleBlockKeepsState : Prop :=
  ∀ s : State, s.held = [] → s.stream.length ≤ s.cp → step s = .next s

/-- 60 R242, R249: every step of every state answers a next state; no command stops the block. -/
def Obligations.EveryStepAnswersNext : Prop :=
  ∀ s : State, ∃ t, step s = .next t

/-- 20 R50, R51, R53: a step never writes the stream or the parameters, and moves `CP` forward by
exactly the words it fetches. (That a held step fetches every word that is there, and that an idle
block steps and stays, is the model's, log entry 5; the words already held, which a whole command's
step does not fetch again, are the model's carrier of a begun command, log entry 4.) -/
def Obligations.StepMovesPointerByFetchedWords : Prop :=
  ∀ s t : State, step s = .next t →
    t.stream = s.stream ∧ t.par = s.par ∧
    t.cp = s.cp +
      match s.fetched with
      | .idle => 0
      | .incomplete => s.stream.length - s.cp
      | .command ws => ws.length - s.held.length

/-- 20 R52, 70 R287: a command whose words arrive in two parts ends in the same outcome as one whose
words arrive together. (The words held between the two are the model's, log entry 4.) -/
def Obligations.SplitCommandRunsAsWhole : Prop :=
  ∀ (s : State) (a b : List Word), s.held = [] → s.cp = s.stream.length →
    frameCommand a = .incomplete → frameCommand (a ++ b) = .command (a ++ b) →
    ∃ h, step { s with stream := s.stream ++ a } = .next h ∧ h.waiting = true ∧
      step { h with stream := h.stream ++ b } = step { s with stream := s.stream ++ (a ++ b) }

/-! ### Errors -/

/-- 60 R243: a failing command, other than by `BUILD`'s failure path, leaves the state exactly as it
was but for the status. -/
def Obligations.FailingCommandIsAllOrNothing : Prop :=
  ∀ (i : Instr) (s t : State), exec i s = .next t → t.lastErr ≠ .ok →
    (i = .build → t.lastErr = .fatal) → t = Spec.failed s t.lastErr

/-- 60 R242, R244: a command that completes leaves `ANY_ERR` as it was, a failing one sets it. -/
def Obligations.StickyErrorFollowsStatus : Prop :=
  ∀ (i : Instr) (s t : State), exec i s = .next t →
    (t.lastErr = .ok → t.anyErr = s.anyErr) ∧ (t.lastErr ≠ .ok → t.anyErr = true)

/-- 60 R240: each command ends with `OK` or one of the codes the table gives it. -/
def Obligations.CommandReportsOnlyItsCodes : Prop :=
  ∀ (i : Instr) (s t : State), exec i s = .next t → t.lastErr ∈ Spec.mayReport i

/-- 10 R31: a command that fails, and one that produces no output, leaves `RESULT`. -/
def Obligations.ResultOnlyFromProducers : Prop :=
  ∀ (i : Instr) (s t : State), exec i s = .next t →
    (t.lastErr ≠ .ok ∨ Spec.producesResult i = false) → t.result = s.result

/-- 10 R22, R23, R27, R29, R30, 20 R55, R60, R61, 41 R120: who writes what. Whatever changed in a
command, the command was one that the rules let write it. That no command writes the stream, `CP` or
`WAITING`, which fetching alone moves, is 20 R51 to R53 and 10 R32; the words held are the model's
(log entry 4), and so is the parameters' place in the state (log entry 1). -/
def Obligations.OnlyNamedCommandsWrite : Prop :=
  ∀ (i : Instr) (s t : State), exec i s = .next t →
    (t.stage ≠ s.stage → ∃ r pol n, i = .pinsel r pol n) ∧
    ((t.busReady ≠ s.busReady ∨ t.busFatal ≠ s.busFatal ∨ t.ctl ≠ s.ctl ∨ t.ng ≠ s.ng ∨
      t.groups ≠ s.groups) → i = .build) ∧
    (t.last ≠ s.last → i = .build ∨ ∃ c d, i = .tx c d) ∧
    (t.trace ≠ s.trace → ∃ c d, i = .tx c d) ∧
    (t.rot ≠ s.rot → ∃ imm, i = .setrot imm) ∧
    (t.bb ≠ s.bb → (∃ imm, i = .setrot imm) ∨ ∃ x y w h b, i = .blit x y w h b) ∧
    (t.pf ≠ s.pf → i = .compose) ∧
    ((t.tfa ≠ s.tfa ∨ t.vsa ≠ s.vsa ∨ t.bfa ≠ s.bfa) → ∃ a b c, i = .setwin a b c) ∧
    (t.ofs ≠ s.ofs → (∃ a b c, i = .setwin a b c) ∨ ∃ o, i = .setofs o) ∧
    (t.devices ≠ s.devices →
      (∃ c a0 a1 a2 a3, i = .regdev c a0 a1 a2 a3) ∨ ∃ d k x, i = .setxf d k x) ∧
    (t.par = s.par ∧ t.stream = s.stream ∧ t.cp = s.cp ∧ t.held = s.held ∧ t.waiting = s.waiting)

/-! ### Invariants -/

/-- 10 R38, 70 R271: the state after reset of every legal instance meets the invariant, the
reference instance's among them (its GPIO addresses are the model's, log entry 2). -/
def Obligations.ResetMeetsInvariant : Prop :=
  (∀ p : Params, p.Legal → (State.resetOf p).Inv) ∧ State.reset.Inv

/-- 10 R38: from every state that meets the invariant, a step gives a state that meets it. -/
def Obligations.StepKeepsInvariant : Prop :=
  ∀ s t : State, s.Inv → step s = .next t → t.Inv

/-- 10 R38: the invariant holds in every state a host and the platform can reach. Beyond 10 R38 the
invariant speaks of what is the model's: the words held (log entry 4), the canonical form of the
buffers (log entry 13), the unused slots (log entry 18); and the runs are the model's account of
resets (log entries 9 and 25), of `STATUS` writes (log entry 14) and of host accesses between steps
(log entry 23). -/
def Obligations.ReachableStatesMeetInvariant : Prop :=
  ∀ (p : Params) (s : State), p.Legal → Reachable p s → s.Inv

/-- 42 R149: elision is correct for every group. Whenever `LAST = v`, the data pins of every spanned
group are at the bits of `v`, from reset on and through every step. (The latches are those of the
reference port model, and nothing but the block writes them: log entries 10 and 20.) -/
def Obligations.StepKeepsDataLinesAtLast : Prop :=
  (∀ p : Params, p.Legal → (State.resetOf p).BusInv) ∧
  ∀ s t : State, s.BusInv → step s = .next t → t.BusInv

/-! ### PINSEL, BUILD -/

/-- 41 R111: PINSEL writes one staging entry and nothing else (the installed bus and `LAST`
included). -/
def Obligations.PinselStagesOnePin : Prop :=
  ∀ (role : Role) (pol : Bool) (pin : Byte) (s : State),
    exec (.pinsel role pol pin) s = .next
      { s with
        stage := s.stage.set role.index.val { valid := true, pin := pin, pol := pol }
        lastErr := .ok }

/-- 41 R117: the writes that activate and deactivate a control pin, in both register families. -/
def Obligations.RegmapGivesControlWrites : Prop :=
  ∀ (p : Params) (n : Byte),
    (p.family = .pins32 →
      regmap p n true =
        { act := ⟨p.setAddr (n.toNat / 32), 1#32 <<< (n.toNat % 32)⟩
          deact := ⟨p.clrAddr (n.toNat / 32), 1#32 <<< (n.toNat % 32)⟩ } ∧
      regmap p n false =
        { act := ⟨p.clrAddr (n.toNat / 32), 1#32 <<< (n.toNat % 32)⟩
          deact := ⟨p.setAddr (n.toNat / 32), 1#32 <<< (n.toNat % 32)⟩ }) ∧
    (p.family = .pins16 →
      regmap p n true =
        { act := ⟨p.bsrrAddr (n.toNat / 16), 1#32 <<< (n.toNat % 16)⟩
          deact := ⟨p.bsrrAddr (n.toNat / 16), 1#32 <<< (n.toNat % 16 + 16)⟩ } ∧
      regmap p n false =
        { act := ⟨p.bsrrAddr (n.toNat / 16), 1#32 <<< (n.toNat % 16 + 16)⟩
          deact := ⟨p.bsrrAddr (n.toNat / 16), 1#32 <<< (n.toNat % 16)⟩ })

/-- 41 R113, R118: BUILD of a good staging installs the RegisterMap and the lookup table of the
staged pins, sets `BUS_READY`, resets `LAST`, and changes nothing else (no GPIO write). -/
def Obligations.BuildInstallsStagedPins : Prop :=
  ∀ s : State, s.busFatal = false → ¬Spec.BusNotWide s → ¬Spec.ControlMissing s →
    ¬Spec.PinOutOfRange s → ¬Spec.PinTwice s →
    ∃ groups, Spec.IsLut s.par (Spec.dataPin s) groups ∧
      exec .build s = .next
        { s with
          ctl :=
            { cs := regmap s.par s.stage[8].pin s.stage[8].pol
              dc := regmap s.par s.stage[9].pin s.stage[9].pol
              wr := regmap s.par s.stage[10].pin s.stage[10].pol }
          ng := groups.length
          groups := groups
          busReady := true
          last := none
          lastErr := .ok }

/-- 41 R113, R114, R115: the error BUILD reports is the first of its checks that fails, and a failing
configuration check leaves the bus dead. (That the RegisterMap and the tables, which nothing reads
while `BUS_READY = 0`, are then those of before is the model's choice, log entry 7, DESIGN CHOICE:
the spec says that the installed configuration does not survive.) -/
def Obligations.BuildReportsFirstError : Prop :=
  ∀ s : State,
    (s.busFatal = true → exec .build s = .next (Spec.failed s .fatal)) ∧
    (s.busFatal = false →
      (Spec.BusNotWide s → exec .build s = .next (Spec.dead s .configBusWidth)) ∧
      (¬Spec.BusNotWide s → Spec.ControlMissing s →
        exec .build s = .next (Spec.dead s .configMissingControl)) ∧
      (¬Spec.BusNotWide s → ¬Spec.ControlMissing s → Spec.PinOutOfRange s →
        exec .build s = .next (Spec.dead s .configInvalidPin)) ∧
      (¬Spec.BusNotWide s → ¬Spec.ControlMissing s → ¬Spec.PinOutOfRange s → Spec.PinTwice s →
        exec .build s = .next (Spec.dead s .configDuplicatePin)))

/-- 41 R114, 60 R258: once `BUS_FATAL = 1`, every BUILD and TX fails with `FATAL`, no step clears
`BUS_FATAL` and no step makes a GPIO write. -/
def Obligations.DeadBusStaysDead : Prop :=
  ∀ s : State, s.busFatal = true →
    exec .build s = .next (Spec.failed s .fatal) ∧
    (∀ cmd data, exec (.tx cmd data) s = .next (Spec.failed s .fatal)) ∧
    ∀ t, step s = .next t → t.busFatal = true ∧ t.busReady = s.busReady ∧ t.trace = s.trace

/-- 41 R119: after a successful BUILD, writing `SETM` and `CLRM` of a spanned group for `v`, over any
latch value, puts each data pin of the group at its bit of `v` and leaves every other pin of the group
at its level, which from an all-clear latch is 0. (The latches are those of the reference port model,
log entry 10.) -/
def Obligations.InstalledLutIsExact : Prop :=
  ∀ s t : State, s.par.Legal → exec .build s = .next t → t.lastErr = .ok →
    ∀ (v : Byte) (out : Latches), ∀ g ∈ t.groups,
      (∀ r : Fin 8, (Spec.dataPin s r).toNat / s.par.family.pins = g.grp →
        pinLevel s.par (portRun s.par out (dataWrite s.par v g)) (Spec.dataPin s r) =
          v.getLsbD r.val) ∧
      (∀ n : Byte, n.toNat / s.par.family.pins = g.grp → (∀ r : Fin 8, n ≠ Spec.dataPin s r) →
        pinLevel s.par (portRun s.par out (dataWrite s.par v g)) n = pinLevel s.par out n) ∧
      ∀ n : Byte, n.toNat / s.par.family.pins = g.grp → (∀ r : Fin 8, n ≠ Spec.dataPin s r) →
        pinLevel s.par (portRun s.par (fun _ => 0) (dataWrite s.par v g)) n = false

/-! ### TX -/

/-- 42 R141, R145, R146: on a usable bus TX makes the writes of its pseudocode, in order, leaves
`LAST` as the pseudocode does, and changes nothing else. -/
def Obligations.TxMakesTheTransaction : Prop :=
  ∀ (cmd : Option Byte) (data : Option (List Byte)) (s : State),
    s.busFatal = false → s.busReady = true →
    exec (.tx cmd data) s = .next
      { s with
        trace := s.trace ++ (Spec.transmit s cmd data).writes
        last := (Spec.transmit s cmd data).last
        lastErr := .ok }

/-- 42 R141: without a usable bus TX fails, `FATAL` before `NOT_CONFIGURED`, and drives no pin. -/
def Obligations.TxWithoutBusFails : Prop :=
  ∀ (cmd : Option Byte) (data : Option (List Byte)) (s : State),
    (s.busFatal = true → exec (.tx cmd data) s = .next (Spec.failed s .fatal)) ∧
    (s.busFatal = false → s.busReady = false →
      exec (.tx cmd data) s = .next (Spec.failed s .notConfigured))

/-- 42 R147: the number of GPIO writes of a strobe and of a TX. -/
def Obligations.TxWriteCount : Prop :=
  ∀ (cmd : Option Byte) (data : Option (List Byte)) (s : State),
    s.busFatal = false → s.busReady = true → s.groups.length = s.ng →
    (∀ (last : Option Byte) (v : Byte), (s.strobe last v).length =
      if last = some v then 2
      else 2 + (if s.par.family = .pins32 then 2 else 1) * s.ng) ∧
    ∃ t, exec (.tx cmd data) s = .next t ∧
      t.trace.length = s.trace.length + 2 + cmd.toList.length + data.toList.length +
        2 * (cmd.toList ++ data.getD []).length +
        (if s.par.family = .pins32 then 2 else 1) * s.ng *
          Spec.written s.last (cmd.toList ++ data.getD [])

/-- 70 R290: one well-formed TX makes at most `4 + 65536 * (2 + 2 * 8)` GPIO writes. -/
def Obligations.TxWritesAreBounded : Prop :=
  ∀ (cmd : Option Byte) (data : Option (List Byte)) (s t : State), s.Inv →
    (Instr.tx cmd data).wellFormed = true → exec (.tx cmd data) s = .next t →
    t.trace.length ≤ s.trace.length + (4 + 65536 * (2 + 2 * 8))

/-! ### SETROT, GETROT, MAPPT -/

/-- 43 R170: the point maps are the table's, each a bijection between the logical grid of its
rotation and the native grid. -/
def Obligations.PointMapsAreBijections : Prop :=
  ∀ p : Params,
    (∀ (n : Rot) (x y : Nat), x < logicalWidth p n → y < logicalHeight p n →
      (toPhysical p n (x, y)).1 < p.w0 ∧ (toPhysical p n (x, y)).2 < p.h0 ∧
      toLogical p n (toPhysical p n (x, y)) = (x, y)) ∧
    (∀ (n : Rot) (px py : Nat), px < p.w0 → py < p.h0 →
      (toLogical p n (px, py)).1 < logicalWidth p n ∧
      (toLogical p n (px, py)).2 < logicalHeight p n ∧
      toPhysical p n (toLogical p n (px, py)) = (px, py)) ∧
    ∀ (n : Rot) (x y : Nat), x < logicalWidth p n → y < logicalHeight p n →
      (((toPhysical p n (x, y)).1 : Int), ((toPhysical p n (x, y)).2 : Int)) =
        match n with
        | .r0 => ((x : Int), (y : Int))
        | .r90 => ((p.w0 : Int) - 1 - y, (x : Int))
        | .r180 => ((p.w0 : Int) - 1 - x, (p.h0 : Int) - 1 - y)
        | .r270 => ((y : Int), (p.h0 : Int) - 1 - x)

/-- 43 R171, R173: SETROT of a multiple of 90 sets `ROT` to the degrees modulo 360 and, when the index
changes, rebuilds `BB` pixel by pixel through the point maps; nothing else changes. -/
def Obligations.SetrotRotatesAndRebuilds : Prop :=
  ∀ (imm : BitVec 28) (s : State), imm.toInt % 90 = 0 →
    ∃ (n : Rot) (bb : Memory), (n.degrees : Int) = imm.toInt % 360 ∧
      exec (.setrot imm) s = .next { s with rot := n, bb := bb, lastErr := .ok } ∧
      (n = s.rot → bb = s.bb) ∧
      (n ≠ s.rot →
        (∀ x y j, x < logicalWidth s.par n → y < logicalHeight s.par n → j < s.par.bytesPerPixel →
          bb.read (pixelOffset (logicalWidth s.par n) s.par.bytesPerPixel x y + j) =
            s.bbByte (toLogical s.par s.rot (toPhysical s.par n (x, y))).1
              (toLogical s.par s.rot (toPhysical s.par n (x, y))).2 j) ∧
        ∀ a, logicalWidth s.par n * logicalHeight s.par n * s.par.bytesPerPixel ≤ a →
          bb.read a = none)

/-- 43 R171: SETROT of any other number of degrees fails with `INVALID_ROTATION`, the rotation
kept. -/
def Obligations.SetrotRejectsOddAngles : Prop :=
  ∀ (imm : BitVec 28) (s : State), imm.toInt % 90 ≠ 0 →
    exec (.setrot imm) s = .next (Spec.failed s .invalidRotation)

/-- 43 R174: the physical image held in `BB` is the same before and after a SETROT, at every physical
point. -/
def Obligations.SetrotKeepsPhysicalImage : Prop :=
  ∀ (imm : BitVec 28) (s t : State), exec (.setrot imm) s = .next t →
    ∀ px py j, px < s.par.w0 → py < s.par.h0 → j < s.par.bytesPerPixel →
      t.bbByte (toLogical s.par t.rot (px, py)).1 (toLogical s.par t.rot (px, py)).2 j =
        s.bbByte (toLogical s.par s.rot (px, py)).1 (toLogical s.par s.rot (px, py)).2 j

/-- 43 R178 (b): a SETROT that succeeds, followed by a SETROT back to the rotation before it, restores
the whole state: `ROT`, `LW`, `LH` and every byte and mark of `BB`. -/
def Obligations.RotationRoundTripRestores : Prop :=
  ∀ (there back : BitVec 28) (s t u : State), s.Inv →
    exec (.setrot there) s = .next t → t.lastErr = .ok →
    back.toInt % 360 = (s.rot.degrees : Int) → exec (.setrot back) t = .next u →
    u = { s with lastErr := .ok }

/-- 43 R175: GETROT gives the rotation in degrees. -/
def Obligations.GetrotReadsDegrees : Prop :=
  ∀ s : State, exec .getrot s = .next
    { s with
      result :=
        match s.rot with
        | .r0 => 0x00000000#32
        | .r90 => 0x0000005A#32
        | .r180 => 0x000000B4#32
        | .r270 => 0x0000010E#32
      lastErr := .ok }

/-- 43 R177: MAPPT of a point inside the logical surface gives its physical point, `px` in the high
half and `py` in the low half of `RESULT`. -/
def Obligations.MapptGivesPhysicalPoint : Prop :=
  ∀ (lx ly : Half) (s : State), s.par.inRange → lx.toNat < s.lw → ly.toNat < s.lh →
    ∃ v : Word, exec (.mappt lx ly) s = .next { s with result := v, lastErr := .ok } ∧
      v.toNat / 65536 = (toPhysical s.par s.rot (lx.toNat, ly.toNat)).1 ∧
      v.toNat % 65536 = (toPhysical s.par s.rot (lx.toNat, ly.toNat)).2

/-- 43 R177: MAPPT of any other point fails with `OUT_OF_BOUNDS`. -/
def Obligations.MapptRejectsOutside : Prop :=
  ∀ (lx ly : Half) (s : State), (s.lw ≤ lx.toNat ∨ s.lh ≤ ly.toNat) →
    exec (.mappt lx ly) s = .next (Spec.failed s .outOfBounds)

/-! ### SETWIN, SETOFS, GETOFS -/

/-- 44 R191, R192: SETWIN of extents that sum to `H0` sets the window, and keeps the offset when it is
still inside the new scroll area, else disables it. -/
def Obligations.SetwinSetsWindow : Prop :=
  ∀ (tfa vsa bfa : Half) (s : State), tfa.toNat + vsa.toNat + bfa.toNat = s.par.h0 →
    exec (.setwin tfa vsa bfa) s = .next
      { s with
        tfa := tfa
        vsa := vsa
        bfa := bfa
        ofs := s.ofs.filter fun o => decide (o.toNat < vsa.toNat)
        lastErr := .ok }

/-- 44 R191: SETWIN of any other extents fails with `CONFIG_SCROLL_EXTENTS`, window and offset kept;
the sum does not wrap. -/
def Obligations.SetwinRejectsWrongSum : Prop :=
  ∀ (tfa vsa bfa : Half) (s : State), tfa.toNat + vsa.toNat + bfa.toNat ≠ s.par.h0 →
    exec (.setwin tfa vsa bfa) s = .next (Spec.failed s .configScrollExtents)

/-- 44 R193: SETOFS sets `DISABLED`, or an offset below `VSA`; any other offset fails with
`INVALID_OFFSET`, the offset kept. -/
def Obligations.SetofsSetsOrRejects : Prop :=
  ∀ s : State,
    exec (.setofs none) s = .next { s with ofs := none, lastErr := .ok } ∧
    ∀ o : Half,
      (o.toNat < s.vsa.toNat →
        exec (.setofs (some o)) s = .next { s with ofs := some o, lastErr := .ok }) ∧
      (s.vsa.toNat ≤ o.toNat →
        exec (.setofs (some o)) s = .next (Spec.failed s .invalidOffset))

/-- 44 R195: GETOFS gives the offset, `0xFFFF_FFFF` for `DISABLED`. -/
def Obligations.GetofsReadsOffset : Prop :=
  ∀ s : State, exec .getofs s = .next
    { s with
      result :=
        match s.ofs with
        | none => 0xFFFFFFFF#32
        | some o => BitVec.ofNat 32 o.toNat
      lastErr := .ok }

/-! ### BLIT, COMPOSE -/

/-- 44 R197: BLIT of a rectangle inside the logical surface with a payload of its size writes each
pixel's bytes, marks them written, and leaves every other byte of `BB` and all other state. -/
def Obligations.BlitWritesRectangle : Prop :=
  ∀ (bx bY bw bh : Half) (bytes : List Byte) (s : State),
    bx.toNat + bw.toNat ≤ s.lw → bY.toNat + bh.toNat ≤ s.lh →
    bytes.length = bw.toNat * bh.toNat * s.par.bytesPerPixel →
    ∃ bb : Memory,
      exec (.blit bx bY bw bh bytes) s = .next { s with bb := bb, lastErr := .ok } ∧
      (∀ i j k, i < bw.toNat → j < bh.toNat → k < s.par.bytesPerPixel →
        (bb.read (pixelOffset s.lw s.par.bytesPerPixel (bx.toNat + i) (bY.toNat + j) + k)).isSome ∧
        bb.read (pixelOffset s.lw s.par.bytesPerPixel (bx.toNat + i) (bY.toNat + j) + k) =
          bytes[(j * bw.toNat + i) * s.par.bytesPerPixel + k]?) ∧
      ∀ a, (∀ i j k, i < bw.toNat → j < bh.toNat → k < s.par.bytesPerPixel →
          a ≠ pixelOffset s.lw s.par.bytesPerPixel (bx.toNat + i) (bY.toNat + j) + k) →
        bb.read a = s.bb.read a

/-- 44 R197: BLIT checks the rectangle first and the payload's size second. -/
def Obligations.BlitRejectsBadRectangle : Prop :=
  ∀ (bx bY bw bh : Half) (bytes : List Byte) (s : State),
    ((s.lw < bx.toNat + bw.toNat ∨ s.lh < bY.toNat + bh.toNat) →
      exec (.blit bx bY bw bh bytes) s = .next (Spec.failed s .outOfBounds)) ∧
    (bx.toNat + bw.toNat ≤ s.lw → bY.toNat + bh.toNat ≤ s.lh →
      bytes.length ≠ bw.toNat * bh.toNat * s.par.bytesPerPixel →
      exec (.blit bx bY bw bh bytes) s = .next (Spec.failed s .bufferSizeMismatch))

/-- 44 R199, R201: after COMPOSE every physical pixel, value and mark, is the backing buffer's at
`M_ROT^-1(px, src_row(py))`; without an offset, or with offset 0, that is the direct copy. Nothing
outside the frame and no other state changes. -/
def Obligations.ComposeMatchesClosedForm : Prop :=
  ∀ s : State, s.tfa.toNat + s.vsa.toNat + s.bfa.toNat = s.par.h0 →
    (∀ o, s.ofs = some o → o.toNat < s.vsa.toNat) →
    ∃ pf : Memory, exec .compose s = .next { s with pf := pf, lastErr := .ok } ∧
      (∀ px py j, px < s.par.w0 → py < s.par.h0 → j < s.par.bytesPerPixel →
        pf.read (pixelOffset s.par.w0 s.par.bytesPerPixel px py + j) =
          s.bbByte
            (toLogical s.par s.rot
              (px, srcRow s.tfa.toNat s.vsa.toNat (s.ofs.getD 0).toNat py)).1
            (toLogical s.par s.rot
              (px, srcRow s.tfa.toNat s.vsa.toNat (s.ofs.getD 0).toNat py)).2 j) ∧
      (s.ofs = none ∨ s.ofs = some 0 →
        ∀ px py j, px < s.par.w0 → py < s.par.h0 → j < s.par.bytesPerPixel →
          pf.read (pixelOffset s.par.w0 s.par.bytesPerPixel px py + j) =
            s.bbByte (toLogical s.par s.rot (px, py)).1 (toLogical s.par s.rot (px, py)).2 j) ∧
      ∀ a, s.par.w0 * s.par.h0 * s.par.bytesPerPixel ≤ a → pf.read a = s.pf.read a

/-- 44 R202: after COMPOSE with offset `o`, physical row `TFA` holds scroll-area row `o` and physical
row `TFA + H - 1` holds scroll-area row `(o + H - 1) mod H`, for `H = VSA > 0`. -/
def Obligations.ComposePlacesScrollEnds : Prop :=
  ∀ (s t : State) (o : Half), s.tfa.toNat + s.vsa.toNat + s.bfa.toNat = s.par.h0 →
    s.ofs = some o → o.toNat < s.vsa.toNat → exec .compose s = .next t →
    ∀ px j, px < s.par.w0 → j < s.par.bytesPerPixel →
      t.pfByte px s.tfa.toNat j =
        s.bbByte (toLogical s.par s.rot (px, s.tfa.toNat + o.toNat)).1
          (toLogical s.par s.rot (px, s.tfa.toNat + o.toNat)).2 j ∧
      t.pfByte px (s.tfa.toNat + s.vsa.toNat - 1) j =
        s.bbByte
          (toLogical s.par s.rot
            (px, s.tfa.toNat + (o.toNat + s.vsa.toNat - 1) % s.vsa.toNat)).1
          (toLogical s.par s.rot
            (px, s.tfa.toNat + (o.toNat + s.vsa.toNat - 1) % s.vsa.toNat)).2 j

/-- 44 R203, R200: the passes of COMPOSE write every physical row exactly once and read every buffer
row exactly once, row `py` from `src_row(py)`; one more row of offset moves the scroll area's rows up
by one, the top one to the bottom. -/
def Obligations.ComposeRowsPermute : Prop :=
  ∀ h0 tfa vsa o : Nat, tfa + vsa ≤ h0 → (o < vsa ∨ o = 0) →
    ((composeRows h0 tfa vsa o).map Prod.fst).Perm (List.range h0) ∧
    ((composeRows h0 tfa vsa o).map Prod.snd).Perm (List.range h0) ∧
    (∀ row ∈ composeRows h0 tfa vsa o, row.2 = srcRow tfa vsa o row.1) ∧
    ∀ k < vsa, srcRow tfa vsa ((o + 1) % vsa) (tfa + k) =
      srcRow tfa vsa o (tfa + (k + 1) % vsa)

/-! ### REGDEV, SETXF, XFORM -/

/-- 45 R221: REGDEV fills the lowest free slot below `NUM_DEVICES` and gives its number; nothing else
changes. -/
def Obligations.RegdevFillsLowestFreeSlot : Prop :=
  ∀ (cap : Capability) (t0 t1 t2 t3 : BitVec 3) (s : State) (d : Fin 16),
    d.val < s.par.numDevices → s.devices[d.val].valid = false →
    (∀ e : Fin 16, e.val < d.val → s.devices[e.val].valid = true) →
    exec (.regdev cap t0 t1 t2 t3) s = .next
      { s with
        devices := s.devices.set d.val { valid := true, cap := cap, xf := #v[t0, t1, t2, t3] }
        result := BitVec.ofNat 32 d.val
        lastErr := .ok }

/-- 45 R221: REGDEV fails with `DEVICE_TABLE_FULL` when every slot is registered. -/
def Obligations.RegdevRejectsFullTable : Prop :=
  ∀ (cap : Capability) (t0 t1 t2 t3 : BitVec 3) (s : State),
    (∀ e : Fin 16, e.val < s.par.numDevices → s.devices[e.val].valid = true) →
    exec (.regdev cap t0 t1 t2 t3) s = .next (Spec.failed s .deviceTableFull)

/-- 45 R223: SETXF of a registered device replaces one entry of its table; nothing else changes. -/
def Obligations.SetxfReplacesOneEntry : Prop :=
  ∀ (dev : BitVec 4) (idx : BitVec 2) (xf : BitVec 3) (s : State),
    dev.toNat < s.par.numDevices → s.devices[dev.toNat].valid = true →
    ∃ table : Vector (BitVec 3) 4,
      table[idx.toNat] = xf ∧
      (∀ k : Fin 4, k.val ≠ idx.toNat → table[k.val] = s.devices[dev.toNat].xf[k.val]) ∧
      exec (.setxf dev idx xf) s = .next
        { s with
          devices := s.devices.set dev.toNat
            { valid := true, cap := s.devices[dev.toNat].cap, xf := table }
          lastErr := .ok }

/-- 45 R223, R225: SETXF and XFORM of a device that is not registered fail with `INVALID_DEVICE`. -/
def Obligations.UnregisteredDeviceIsRejected : Prop :=
  ∀ (dev : BitVec 4) (s : State),
    (s.par.numDevices ≤ dev.toNat ∨ s.devices[dev.toNat].valid = false) →
    (∀ idx xf, exec (.setxf dev idx xf) s = .next (Spec.failed s .invalidDevice)) ∧
    ∀ x y, exec (.xform dev x y) s = .next (Spec.failed s .invalidDevice)

/-- 45 R220, R225, 10 R30: XFORM applies the code for the current rotation, swap first and then the
reversals against the logical size, exactly, and truncates each coordinate to 16 bits. -/
def Obligations.XformAppliesCurrentCode : Prop :=
  ∀ (dev : BitVec 4) (x y : Half) (s : State),
    dev.toNat < s.par.numDevices → s.devices[dev.toNat].valid = true →
    let code : BitVec 3 := s.devices[dev.toNat].xf[s.rot.index.val]
    let u : Int := if code.getLsbD 2 then y.toInt else x.toInt
    let v : Int := if code.getLsbD 2 then x.toInt else y.toInt
    exec (.xform dev x y) s = .next
      { s with
        result :=
          BitVec.ofInt 16 (if code.getLsbD 1 then (s.lw : Int) - 1 - u else u) ++
            BitVec.ofInt 16 (if code.getLsbD 0 then (s.lh : Int) - 1 - v else v)
        lastErr := .ok }

/-- 45 R226: with the native table, XFORM of a native-frame point gives the logical point drawn at
that pixel, `M_ROT^-1`, at every rotation. -/
def Obligations.NativeTableInvertsPointMap : Prop :=
  ∀ (dev : BitVec 4) (px py : Half) (s : State), s.par.inRange →
    dev.toNat < s.par.numDevices → s.devices[dev.toNat].valid = true →
    s.devices[dev.toNat].xf = #v[0b000#3, 0b101#3, 0b011#3, 0b110#3] →
    px.toNat < s.par.w0 → py.toNat < s.par.h0 →
    ∃ v : Word, exec (.xform dev px py) s = .next { s with result := v, lastErr := .ok } ∧
      v.toNat / 65536 = (toLogical s.par s.rot (px.toNat, py.toNat)).1 ∧
      v.toNat % 65536 = (toLogical s.par s.rot (px.toNat, py.toNat)).2

/-! ### Reset, parameters and the host window -/

/-- 00 R6, R7: parameters that break a constraint of `Params.Legal` are refused, others give the state
after reset. (That `Params.Legal` asks that the register addresses be complete, multiples of 4 and
distinct for the family in use only is the model's choice, log entry 24, DESIGN CHOICE: 00 R7 names
equal register addresses of 00 R6 without that limit.) -/
def Obligations.IllegalParamsAreRefused : Prop :=
  ∀ p : Params, (p.Legal → instantiate p = .next (State.resetOf p)) ∧
    (¬p.Legal → instantiate p = .refused .illegalParams)

/-- 70 R270, R271: the reset values the spec gives, whatever state the platform's reset finds, a
command boundary with an empty stream, and no GPIO write; a command in progress is cut off after the
GPIO writes it has issued, `n` of them, and leaves nothing but those. (That nothing is held is log
entry 4, that the trace keeps the writes already made is log entry 9, and that a command can be cut
off after any number of its writes is log entry 25.) -/
def Obligations.ResetGivesSpecValues : Prop :=
  ∀ s : State,
    let t := s.platformReset
    t.par = s.par ∧ t.stream = [] ∧ t.cp = 0 ∧ t.held = [] ∧
    (∀ r : Fin 11, t.stage[r.val] = { valid := false, pin := 0, pol := false }) ∧
    t.busReady = false ∧ t.busFatal = false ∧ t.ng = 0 ∧ t.last = none ∧
    (s.par.rot0 % 90 = 0 → (t.rot.degrees : Int) = s.par.rot0 % 360) ∧
    (s.par.inRange → t.tfa.toNat = s.par.tfa0 ∧ t.vsa.toNat = s.par.vsa0 ∧
      t.bfa.toNat = s.par.bfa0) ∧
    t.ofs = none ∧
    (∀ d : Fin 16, t.devices[d.val].valid = false ∧ t.devices[d.val].cap = .pointer ∧
      ∀ k : Fin 4, t.devices[d.val].xf[k.val] = 0) ∧
    t.result = 0 ∧ t.lastErr = .ok ∧ t.anyErr = false ∧ t.waiting = false ∧
    (∀ a, t.bb.read a = none) ∧ (∀ a, t.pf.read a = none) ∧ t.trace = s.trace ∧
    ∀ n, ∃ ws, s.resetDuring n = { t with trace := s.trace ++ ws } ∧
      ∀ u, step s = .next u →
        s.trace ++ ws <+: u.trace ∧ ws.length = min n (u.trace.length - s.trace.length)

/-- 10 R34, R35, R37: a host read of each of the sixteen offsets answers the register of the state
after every command already written has completed, field by field in its bits, and leaves that state
as it is (`NG` is at most 8, 10 R25); 70 R272: what the window reads right after reset of any legal
instance. -/
def Obligations.WindowReadsRegisters : Prop :=
  (∀ s t : State, s.par.Legal → s.settle = .next t → t.ng ≤ 8 → ∀ r ∈ Spec.windowReads t,
    hostRead s (Spec.windowAddr s r.1) 4 = .next (t, BitVec.ofNat 32 r.2)) ∧
  ∀ p : Params, p.Legal → ∀ r ∈ Spec.resetReads p,
    hostRead (State.resetOf p) (Spec.windowAddr (State.resetOf p) r.1) 4 =
      .next (State.resetOf p, BitVec.ofNat 32 r.2)

/-- 10 R37: a host read or a write to `STATUS` first lets every command whose words have all been
written complete: settling always answers, and leaves no whole command unexecuted. (That a `STATUS`
write settles first is log entry 14.) -/
def Obligations.SettlingExecutesEveryCommand : Prop :=
  ∀ s : State, ∃ t, s.settle = .next t ∧ t.Settled ∧ t.stream = s.stream

/-- 10 R36: a host write to `STATUS` clears `ANY_ERR` exactly when bit 4 is set, ignores every other
bit and changes nothing else. (That the commands already written come first is log entry 14.) -/
def Obligations.StatusWriteClearsStickyError : Prop :=
  ∀ (s t : State) (v : Word), s.par.Legal → s.settle = .next t →
    hostWrite s (Spec.windowAddr s 0x04) 4 v = .next
      { t with anyErr := if v.toNat / 16 % 2 = 1 then false else t.anyErr } ∧
    (s.held = [] → s.stream.length ≤ s.cp → t = s)

/-- 10 R35, R37: a host write to `CMD` appends one word to the stream, a write to a read-only or
reserved register has no effect, and an access that is not an aligned 32-bit access is refused. -/
def Obligations.HostWritesReachOnlyTheirRegister : Prop :=
  ∀ (s : State) (v : Word), s.par.Legal →
    hostWrite s (Spec.windowAddr s 0x00) 4 v = .next { s with stream := s.stream ++ [v] } ∧
    (∀ k, 2 ≤ k → k < 16 → hostWrite s (Spec.windowAddr s (4 * k)) 4 v = .next s) ∧
    ∀ (addr : Word) (width : Nat), (width ≠ 4 ∨ addr.toNat % 4 ≠ 0) →
      hostWrite s addr width v = .refused .hostAccess ∧
      hostRead s addr width = .refused .hostAccess
end

