-- ==== Sys2Proof/Laws/State.lean ====
section
/-! SUPPORT. What each named update of State does to each field: one lemma per field per update, so
that no proof unfolds a record update. -/

namespace Sys2Proof.Machine

variable (s : State)

/-! ### `State.raise` (60 R242) -/

@[simp] theorem State.raise_par (e : ErrCode) : (s.raise e).par = s.par := rfl
@[simp] theorem State.raise_stream (e : ErrCode) : (s.raise e).stream = s.stream := rfl
@[simp] theorem State.raise_cp (e : ErrCode) : (s.raise e).cp = s.cp := rfl
@[simp] theorem State.raise_held (e : ErrCode) : (s.raise e).held = s.held := rfl
@[simp] theorem State.raise_waiting (e : ErrCode) : (s.raise e).waiting = s.waiting := rfl
@[simp] theorem State.raise_stage (e : ErrCode) : (s.raise e).stage = s.stage := rfl
@[simp] theorem State.raise_busReady (e : ErrCode) : (s.raise e).busReady = s.busReady := rfl
@[simp] theorem State.raise_busFatal (e : ErrCode) : (s.raise e).busFatal = s.busFatal := rfl
@[simp] theorem State.raise_ctl (e : ErrCode) : (s.raise e).ctl = s.ctl := rfl
@[simp] theorem State.raise_ng (e : ErrCode) : (s.raise e).ng = s.ng := rfl
@[simp] theorem State.raise_groups (e : ErrCode) : (s.raise e).groups = s.groups := rfl
@[simp] theorem State.raise_last (e : ErrCode) : (s.raise e).last = s.last := rfl
@[simp] theorem State.raise_rot (e : ErrCode) : (s.raise e).rot = s.rot := rfl
@[simp] theorem State.raise_tfa (e : ErrCode) : (s.raise e).tfa = s.tfa := rfl
@[simp] theorem State.raise_vsa (e : ErrCode) : (s.raise e).vsa = s.vsa := rfl
@[simp] theorem State.raise_bfa (e : ErrCode) : (s.raise e).bfa = s.bfa := rfl
@[simp] theorem State.raise_ofs (e : ErrCode) : (s.raise e).ofs = s.ofs := rfl
@[simp] theorem State.raise_devices (e : ErrCode) : (s.raise e).devices = s.devices := rfl
@[simp] theorem State.raise_result (e : ErrCode) : (s.raise e).result = s.result := rfl
@[simp] theorem State.raise_lastErr (e : ErrCode) : (s.raise e).lastErr = e := rfl
@[simp] theorem State.raise_anyErr (e : ErrCode) : (s.raise e).anyErr = true := rfl
@[simp] theorem State.raise_bb (e : ErrCode) : (s.raise e).bb = s.bb := rfl
@[simp] theorem State.raise_pf (e : ErrCode) : (s.raise e).pf = s.pf := rfl
@[simp] theorem State.raise_trace (e : ErrCode) : (s.raise e).trace = s.trace := rfl
@[simp] theorem State.raise_lw (e : ErrCode) : (s.raise e).lw = s.lw := rfl
@[simp] theorem State.raise_lh (e : ErrCode) : (s.raise e).lh = s.lh := rfl

/-! ### `State.complete` (60 R244) -/

@[simp] theorem State.complete_par : s.complete.par = s.par := rfl
@[simp] theorem State.complete_stream : s.complete.stream = s.stream := rfl
@[simp] theorem State.complete_cp : s.complete.cp = s.cp := rfl
@[simp] theorem State.complete_held : s.complete.held = s.held := rfl
@[simp] theorem State.complete_waiting : s.complete.waiting = s.waiting := rfl
@[simp] theorem State.complete_stage : s.complete.stage = s.stage := rfl
@[simp] theorem State.complete_busReady : s.complete.busReady = s.busReady := rfl
@[simp] theorem State.complete_busFatal : s.complete.busFatal = s.busFatal := rfl
@[simp] theorem State.complete_ctl : s.complete.ctl = s.ctl := rfl
@[simp] theorem State.complete_ng : s.complete.ng = s.ng := rfl
@[simp] theorem State.complete_groups : s.complete.groups = s.groups := rfl
@[simp] theorem State.complete_last : s.complete.last = s.last := rfl
@[simp] theorem State.complete_rot : s.complete.rot = s.rot := rfl
@[simp] theorem State.complete_tfa : s.complete.tfa = s.tfa := rfl
@[simp] theorem State.complete_vsa : s.complete.vsa = s.vsa := rfl
@[simp] theorem State.complete_bfa : s.complete.bfa = s.bfa := rfl
@[simp] theorem State.complete_ofs : s.complete.ofs = s.ofs := rfl
@[simp] theorem State.complete_devices : s.complete.devices = s.devices := rfl
@[simp] theorem State.complete_result : s.complete.result = s.result := rfl
@[simp] theorem State.complete_lastErr : s.complete.lastErr = .ok := rfl
@[simp] theorem State.complete_anyErr : s.complete.anyErr = s.anyErr := rfl
@[simp] theorem State.complete_bb : s.complete.bb = s.bb := rfl
@[simp] theorem State.complete_pf : s.complete.pf = s.pf := rfl
@[simp] theorem State.complete_trace : s.complete.trace = s.trace := rfl
@[simp] theorem State.complete_lw : s.complete.lw = s.lw := rfl
@[simp] theorem State.complete_lh : s.complete.lh = s.lh := rfl

/-! ### `State.setResult` (10 R31) -/

@[simp] theorem State.setResult_par (v : Word) : (s.setResult v).par = s.par := rfl
@[simp] theorem State.setResult_stream (v : Word) : (s.setResult v).stream = s.stream := rfl
@[simp] theorem State.setResult_cp (v : Word) : (s.setResult v).cp = s.cp := rfl
@[simp] theorem State.setResult_held (v : Word) : (s.setResult v).held = s.held := rfl
@[simp] theorem State.setResult_waiting (v : Word) : (s.setResult v).waiting = s.waiting := rfl
@[simp] theorem State.setResult_stage (v : Word) : (s.setResult v).stage = s.stage := rfl
@[simp] theorem State.setResult_busReady (v : Word) : (s.setResult v).busReady = s.busReady := rfl
@[simp] theorem State.setResult_busFatal (v : Word) : (s.setResult v).busFatal = s.busFatal := rfl
@[simp] theorem State.setResult_ctl (v : Word) : (s.setResult v).ctl = s.ctl := rfl
@[simp] theorem State.setResult_ng (v : Word) : (s.setResult v).ng = s.ng := rfl
@[simp] theorem State.setResult_groups (v : Word) : (s.setResult v).groups = s.groups := rfl
@[simp] theorem State.setResult_last (v : Word) : (s.setResult v).last = s.last := rfl
@[simp] theorem State.setResult_rot (v : Word) : (s.setResult v).rot = s.rot := rfl
@[simp] theorem State.setResult_tfa (v : Word) : (s.setResult v).tfa = s.tfa := rfl
@[simp] theorem State.setResult_vsa (v : Word) : (s.setResult v).vsa = s.vsa := rfl
@[simp] theorem State.setResult_bfa (v : Word) : (s.setResult v).bfa = s.bfa := rfl
@[simp] theorem State.setResult_ofs (v : Word) : (s.setResult v).ofs = s.ofs := rfl
@[simp] theorem State.setResult_devices (v : Word) : (s.setResult v).devices = s.devices := rfl
@[simp] theorem State.setResult_result (v : Word) : (s.setResult v).result = v := rfl
@[simp] theorem State.setResult_lastErr (v : Word) : (s.setResult v).lastErr = s.lastErr := rfl
@[simp] theorem State.setResult_anyErr (v : Word) : (s.setResult v).anyErr = s.anyErr := rfl
@[simp] theorem State.setResult_bb (v : Word) : (s.setResult v).bb = s.bb := rfl
@[simp] theorem State.setResult_pf (v : Word) : (s.setResult v).pf = s.pf := rfl
@[simp] theorem State.setResult_trace (v : Word) : (s.setResult v).trace = s.trace := rfl
@[simp] theorem State.setResult_lw (v : Word) : (s.setResult v).lw = s.lw := rfl
@[simp] theorem State.setResult_lh (v : Word) : (s.setResult v).lh = s.lh := rfl

/-! ### `State.stagePin` (41 R111) -/

@[simp] theorem State.stagePin_par (r : Role) (e : StageEntry) : (s.stagePin r e).par = s.par := rfl
@[simp] theorem State.stagePin_stream (r : Role) (e : StageEntry) :
    (s.stagePin r e).stream = s.stream := rfl
@[simp] theorem State.stagePin_cp (r : Role) (e : StageEntry) : (s.stagePin r e).cp = s.cp := rfl
@[simp] theorem State.stagePin_held (r : Role) (e : StageEntry) :
    (s.stagePin r e).held = s.held := rfl
@[simp] theorem State.stagePin_waiting (r : Role) (e : StageEntry) :
    (s.stagePin r e).waiting = s.waiting := rfl
@[simp] theorem State.stagePin_stage (r : Role) (e : StageEntry) :
    (s.stagePin r e).stage = s.stage.set r.index.val e := rfl
@[simp] theorem State.stagePin_busReady (r : Role) (e : StageEntry) :
    (s.stagePin r e).busReady = s.busReady := rfl
@[simp] theorem State.stagePin_busFatal (r : Role) (e : StageEntry) :
    (s.stagePin r e).busFatal = s.busFatal := rfl
@[simp] theorem State.stagePin_ctl (r : Role) (e : StageEntry) : (s.stagePin r e).ctl = s.ctl := rfl
@[simp] theorem State.stagePin_ng (r : Role) (e : StageEntry) : (s.stagePin r e).ng = s.ng := rfl
@[simp] theorem State.stagePin_groups (r : Role) (e : StageEntry) :
    (s.stagePin r e).groups = s.groups := rfl
@[simp] theorem State.stagePin_last (r : Role) (e : StageEntry) :
    (s.stagePin r e).last = s.last := rfl
@[simp] theorem State.stagePin_rot (r : Role) (e : StageEntry) : (s.stagePin r e).rot = s.rot := rfl
@[simp] theorem State.stagePin_tfa (r : Role) (e : StageEntry) : (s.stagePin r e).tfa = s.tfa := rfl
@[simp] theorem State.stagePin_vsa (r : Role) (e : StageEntry) : (s.stagePin r e).vsa = s.vsa := rfl
@[simp] theorem State.stagePin_bfa (r : Role) (e : StageEntry) : (s.stagePin r e).bfa = s.bfa := rfl
@[simp] theorem State.stagePin_ofs (r : Role) (e : StageEntry) : (s.stagePin r e).ofs = s.ofs := rfl
@[simp] theorem State.stagePin_devices (r : Role) (e : StageEntry) :
    (s.stagePin r e).devices = s.devices := rfl
@[simp] theorem State.stagePin_result (r : Role) (e : StageEntry) :
    (s.stagePin r e).result = s.result := rfl
@[simp] theorem State.stagePin_lastErr (r : Role) (e : StageEntry) :
    (s.stagePin r e).lastErr = s.lastErr := rfl
@[simp] theorem State.stagePin_anyErr (r : Role) (e : StageEntry) :
    (s.stagePin r e).anyErr = s.anyErr := rfl
@[simp] theorem State.stagePin_bb (r : Role) (e : StageEntry) : (s.stagePin r e).bb = s.bb := rfl
@[simp] theorem State.stagePin_pf (r : Role) (e : StageEntry) : (s.stagePin r e).pf = s.pf := rfl
@[simp] theorem State.stagePin_trace (r : Role) (e : StageEntry) :
    (s.stagePin r e).trace = s.trace := rfl
@[simp] theorem State.stagePin_lw (r : Role) (e : StageEntry) : (s.stagePin r e).lw = s.lw := rfl
@[simp] theorem State.stagePin_lh (r : Role) (e : StageEntry) : (s.stagePin r e).lh = s.lh := rfl

/-! ### `State.killBus` (41 R114) -/

@[simp] theorem State.killBus_par : s.killBus.par = s.par := rfl
@[simp] theorem State.killBus_stream : s.killBus.stream = s.stream := rfl
@[simp] theorem State.killBus_cp : s.killBus.cp = s.cp := rfl
@[simp] theorem State.killBus_held : s.killBus.held = s.held := rfl
@[simp] theorem State.killBus_waiting : s.killBus.waiting = s.waiting := rfl
@[simp] theorem State.killBus_stage : s.killBus.stage = s.stage := rfl
@[simp] theorem State.killBus_busReady : s.killBus.busReady = false := rfl
@[simp] theorem State.killBus_busFatal : s.killBus.busFatal = true := rfl
@[simp] theorem State.killBus_ctl : s.killBus.ctl = s.ctl := rfl
@[simp] theorem State.killBus_ng : s.killBus.ng = 0 := rfl
@[simp] theorem State.killBus_groups : s.killBus.groups = s.groups := rfl
@[simp] theorem State.killBus_last : s.killBus.last = none := rfl
@[simp] theorem State.killBus_rot : s.killBus.rot = s.rot := rfl
@[simp] theorem State.killBus_tfa : s.killBus.tfa = s.tfa := rfl
@[simp] theorem State.killBus_vsa : s.killBus.vsa = s.vsa := rfl
@[simp] theorem State.killBus_bfa : s.killBus.bfa = s.bfa := rfl
@[simp] theorem State.killBus_ofs : s.killBus.ofs = s.ofs := rfl
@[simp] theorem State.killBus_devices : s.killBus.devices = s.devices := rfl
@[simp] theorem State.killBus_result : s.killBus.result = s.result := rfl
@[simp] theorem State.killBus_lastErr : s.killBus.lastErr = s.lastErr := rfl
@[simp] theorem State.killBus_anyErr : s.killBus.anyErr = s.anyErr := rfl
@[simp] theorem State.killBus_bb : s.killBus.bb = s.bb := rfl
@[simp] theorem State.killBus_pf : s.killBus.pf = s.pf := rfl
@[simp] theorem State.killBus_trace : s.killBus.trace = s.trace := rfl
@[simp] theorem State.killBus_lw : s.killBus.lw = s.lw := rfl
@[simp] theorem State.killBus_lh : s.killBus.lh = s.lh := rfl

/-! ### `State.installBus` (41 R113) -/

@[simp] theorem State.installBus_par (c : RegisterMap) (g : List LutGroup) :
    (s.installBus c g).par = s.par := rfl
@[simp] theorem State.installBus_stream (c : RegisterMap) (g : List LutGroup) :
    (s.installBus c g).stream = s.stream := rfl
@[simp] theorem State.installBus_cp (c : RegisterMap) (g : List LutGroup) :
    (s.installBus c g).cp = s.cp := rfl
@[simp] theorem State.installBus_held (c : RegisterMap) (g : List LutGroup) :
    (s.installBus c g).held = s.held := rfl
@[simp] theorem State.installBus_waiting (c : RegisterMap) (g : List LutGroup) :
    (s.installBus c g).waiting = s.waiting := rfl
@[simp] theorem State.installBus_stage (c : RegisterMap) (g : List LutGroup) :
    (s.installBus c g).stage = s.stage := rfl
@[simp] theorem State.installBus_busReady (c : RegisterMap) (g : List LutGroup) :
    (s.installBus c g).busReady = true := rfl
@[simp] theorem State.installBus_busFatal (c : RegisterMap) (g : List LutGroup) :
    (s.installBus c g).busFatal = s.busFatal := rfl
@[simp] theorem State.installBus_ctl (c : RegisterMap) (g : List LutGroup) :
    (s.installBus c g).ctl = c := rfl
@[simp] theorem State.installBus_ng (c : RegisterMap) (g : List LutGroup) :
    (s.installBus c g).ng = g.length := rfl
@[simp] theorem State.installBus_groups (c : RegisterMap) (g : List LutGroup) :
    (s.installBus c g).groups = g := rfl
@[simp] theorem State.installBus_last (c : RegisterMap) (g : List LutGroup) :
    (s.installBus c g).last = none := rfl
@[simp] theorem State.installBus_rot (c : RegisterMap) (g : List LutGroup) :
    (s.installBus c g).rot = s.rot := rfl
@[simp] theorem State.installBus_tfa (c : RegisterMap) (g : List LutGroup) :
    (s.installBus c g).tfa = s.tfa := rfl
@[simp] theorem State.installBus_vsa (c : RegisterMap) (g : List LutGroup) :
    (s.installBus c g).vsa = s.vsa := rfl
@[simp] theorem State.installBus_bfa (c : RegisterMap) (g : List LutGroup) :
    (s.installBus c g).bfa = s.bfa := rfl
@[simp] theorem State.installBus_ofs (c : RegisterMap) (g : List LutGroup) :
    (s.installBus c g).ofs = s.ofs := rfl
@[simp] theorem State.installBus_devices (c : RegisterMap) (g : List LutGroup) :
    (s.installBus c g).devices = s.devices := rfl
@[simp] theorem State.installBus_result (c : RegisterMap) (g : List LutGroup) :
    (s.installBus c g).result = s.result := rfl
@[simp] theorem State.installBus_lastErr (c : RegisterMap) (g : List LutGroup) :
    (s.installBus c g).lastErr = s.lastErr := rfl
@[simp] theorem State.installBus_anyErr (c : RegisterMap) (g : List LutGroup) :
    (s.installBus c g).anyErr = s.anyErr := rfl
@[simp] theorem State.installBus_bb (c : RegisterMap) (g : List LutGroup) :
    (s.installBus c g).bb = s.bb := rfl
@[simp] theorem State.installBus_pf (c : RegisterMap) (g : List LutGroup) :
    (s.installBus c g).pf = s.pf := rfl
@[simp] theorem State.installBus_trace (c : RegisterMap) (g : List LutGroup) :
    (s.installBus c g).trace = s.trace := rfl
@[simp] theorem State.installBus_lw (c : RegisterMap) (g : List LutGroup) : (s.installBus c g).lw = s.lw := rfl
@[simp] theorem State.installBus_lh (c : RegisterMap) (g : List LutGroup) : (s.installBus c g).lh = s.lh := rfl

/-! ### `State.emit` (42 R145) -/

@[simp] theorem State.emit_par (ws : List GpioWrite) (l : Option Byte) :
    (s.emit ws l).par = s.par := rfl
@[simp] theorem State.emit_stream (ws : List GpioWrite) (l : Option Byte) :
    (s.emit ws l).stream = s.stream := rfl
@[simp] theorem State.emit_cp (ws : List GpioWrite) (l : Option Byte) :
    (s.emit ws l).cp = s.cp := rfl
@[simp] theorem State.emit_held (ws : List GpioWrite) (l : Option Byte) :
    (s.emit ws l).held = s.held := rfl
@[simp] theorem State.emit_waiting (ws : List GpioWrite) (l : Option Byte) :
    (s.emit ws l).waiting = s.waiting := rfl
@[simp] theorem State.emit_stage (ws : List GpioWrite) (l : Option Byte) :
    (s.emit ws l).stage = s.stage := rfl
@[simp] theorem State.emit_busReady (ws : List GpioWrite) (l : Option Byte) :
    (s.emit ws l).busReady = s.busReady := rfl
@[simp] theorem State.emit_busFatal (ws : List GpioWrite) (l : Option Byte) :
    (s.emit ws l).busFatal = s.busFatal := rfl
@[simp] theorem State.emit_ctl (ws : List GpioWrite) (l : Option Byte) :
    (s.emit ws l).ctl = s.ctl := rfl
@[simp] theorem State.emit_ng (ws : List GpioWrite) (l : Option Byte) :
    (s.emit ws l).ng = s.ng := rfl
@[simp] theorem State.emit_groups (ws : List GpioWrite) (l : Option Byte) :
    (s.emit ws l).groups = s.groups := rfl
@[simp] theorem State.emit_last (ws : List GpioWrite) (l : Option Byte) :
    (s.emit ws l).last = l := rfl
@[simp] theorem State.emit_rot (ws : List GpioWrite) (l : Option Byte) :
    (s.emit ws l).rot = s.rot := rfl
@[simp] theorem State.emit_tfa (ws : List GpioWrite) (l : Option Byte) :
    (s.emit ws l).tfa = s.tfa := rfl
@[simp] theorem State.emit_vsa (ws : List GpioWrite) (l : Option Byte) :
    (s.emit ws l).vsa = s.vsa := rfl
@[simp] theorem State.emit_bfa (ws : List GpioWrite) (l : Option Byte) :
    (s.emit ws l).bfa = s.bfa := rfl
@[simp] theorem State.emit_ofs (ws : List GpioWrite) (l : Option Byte) :
    (s.emit ws l).ofs = s.ofs := rfl
@[simp] theorem State.emit_devices (ws : List GpioWrite) (l : Option Byte) :
    (s.emit ws l).devices = s.devices := rfl
@[simp] theorem State.emit_result (ws : List GpioWrite) (l : Option Byte) :
    (s.emit ws l).result = s.result := rfl
@[simp] theorem State.emit_lastErr (ws : List GpioWrite) (l : Option Byte) :
    (s.emit ws l).lastErr = s.lastErr := rfl
@[simp] theorem State.emit_anyErr (ws : List GpioWrite) (l : Option Byte) :
    (s.emit ws l).anyErr = s.anyErr := rfl
@[simp] theorem State.emit_bb (ws : List GpioWrite) (l : Option Byte) :
    (s.emit ws l).bb = s.bb := rfl
@[simp] theorem State.emit_pf (ws : List GpioWrite) (l : Option Byte) :
    (s.emit ws l).pf = s.pf := rfl
@[simp] theorem State.emit_trace (ws : List GpioWrite) (l : Option Byte) :
    (s.emit ws l).trace = s.trace ++ ws := rfl
@[simp] theorem State.emit_lw (ws : List GpioWrite) (l : Option Byte) : (s.emit ws l).lw = s.lw := rfl
@[simp] theorem State.emit_lh (ws : List GpioWrite) (l : Option Byte) : (s.emit ws l).lh = s.lh := rfl

/-! ### `State.setRotation` (43 R171) -/

@[simp] theorem State.setRotation_par (r : Rot) (m : Memory) :
    (s.setRotation r m).par = s.par := rfl
@[simp] theorem State.setRotation_stream (r : Rot) (m : Memory) :
    (s.setRotation r m).stream = s.stream := rfl
@[simp] theorem State.setRotation_cp (r : Rot) (m : Memory) : (s.setRotation r m).cp = s.cp := rfl
@[simp] theorem State.setRotation_held (r : Rot) (m : Memory) :
    (s.setRotation r m).held = s.held := rfl
@[simp] theorem State.setRotation_waiting (r : Rot) (m : Memory) :
    (s.setRotation r m).waiting = s.waiting := rfl
@[simp] theorem State.setRotation_stage (r : Rot) (m : Memory) :
    (s.setRotation r m).stage = s.stage := rfl
@[simp] theorem State.setRotation_busReady (r : Rot) (m : Memory) :
    (s.setRotation r m).busReady = s.busReady := rfl
@[simp] theorem State.setRotation_busFatal (r : Rot) (m : Memory) :
    (s.setRotation r m).busFatal = s.busFatal := rfl
@[simp] theorem State.setRotation_ctl (r : Rot) (m : Memory) :
    (s.setRotation r m).ctl = s.ctl := rfl
@[simp] theorem State.setRotation_ng (r : Rot) (m : Memory) : (s.setRotation r m).ng = s.ng := rfl
@[simp] theorem State.setRotation_groups (r : Rot) (m : Memory) :
    (s.setRotation r m).groups = s.groups := rfl
@[simp] theorem State.setRotation_last (r : Rot) (m : Memory) :
    (s.setRotation r m).last = s.last := rfl
@[simp] theorem State.setRotation_rot (r : Rot) (m : Memory) : (s.setRotation r m).rot = r := rfl
@[simp] theorem State.setRotation_tfa (r : Rot) (m : Memory) :
    (s.setRotation r m).tfa = s.tfa := rfl
@[simp] theorem State.setRotation_vsa (r : Rot) (m : Memory) :
    (s.setRotation r m).vsa = s.vsa := rfl
@[simp] theorem State.setRotation_bfa (r : Rot) (m : Memory) :
    (s.setRotation r m).bfa = s.bfa := rfl
@[simp] theorem State.setRotation_ofs (r : Rot) (m : Memory) :
    (s.setRotation r m).ofs = s.ofs := rfl
@[simp] theorem State.setRotation_devices (r : Rot) (m : Memory) :
    (s.setRotation r m).devices = s.devices := rfl
@[simp] theorem State.setRotation_result (r : Rot) (m : Memory) :
    (s.setRotation r m).result = s.result := rfl
@[simp] theorem State.setRotation_lastErr (r : Rot) (m : Memory) :
    (s.setRotation r m).lastErr = s.lastErr := rfl
@[simp] theorem State.setRotation_anyErr (r : Rot) (m : Memory) :
    (s.setRotation r m).anyErr = s.anyErr := rfl
@[simp] theorem State.setRotation_bb (r : Rot) (m : Memory) : (s.setRotation r m).bb = m := rfl
@[simp] theorem State.setRotation_pf (r : Rot) (m : Memory) : (s.setRotation r m).pf = s.pf := rfl
@[simp] theorem State.setRotation_trace (r : Rot) (m : Memory) :
    (s.setRotation r m).trace = s.trace := rfl
@[simp] theorem State.setRotation_lw (r : Rot) (m : Memory) : (s.setRotation r m).lw = logicalWidth s.par r := rfl
@[simp] theorem State.setRotation_lh (r : Rot) (m : Memory) : (s.setRotation r m).lh = logicalHeight s.par r := rfl

/-! ### `State.setWindow` (44 R191) -/

@[simp] theorem State.setWindow_par (t v b : Half) (o : Option Half) :
    (s.setWindow t v b o).par = s.par := rfl
@[simp] theorem State.setWindow_stream (t v b : Half) (o : Option Half) :
    (s.setWindow t v b o).stream = s.stream := rfl
@[simp] theorem State.setWindow_cp (t v b : Half) (o : Option Half) :
    (s.setWindow t v b o).cp = s.cp := rfl
@[simp] theorem State.setWindow_held (t v b : Half) (o : Option Half) :
    (s.setWindow t v b o).held = s.held := rfl
@[simp] theorem State.setWindow_waiting (t v b : Half) (o : Option Half) :
    (s.setWindow t v b o).waiting = s.waiting := rfl
@[simp] theorem State.setWindow_stage (t v b : Half) (o : Option Half) :
    (s.setWindow t v b o).stage = s.stage := rfl
@[simp] theorem State.setWindow_busReady (t v b : Half) (o : Option Half) :
    (s.setWindow t v b o).busReady = s.busReady := rfl
@[simp] theorem State.setWindow_busFatal (t v b : Half) (o : Option Half) :
    (s.setWindow t v b o).busFatal = s.busFatal := rfl
@[simp] theorem State.setWindow_ctl (t v b : Half) (o : Option Half) :
    (s.setWindow t v b o).ctl = s.ctl := rfl
@[simp] theorem State.setWindow_ng (t v b : Half) (o : Option Half) :
    (s.setWindow t v b o).ng = s.ng := rfl
@[simp] theorem State.setWindow_groups (t v b : Half) (o : Option Half) :
    (s.setWindow t v b o).groups = s.groups := rfl
@[simp] theorem State.setWindow_last (t v b : Half) (o : Option Half) :
    (s.setWindow t v b o).last = s.last := rfl
@[simp] theorem State.setWindow_rot (t v b : Half) (o : Option Half) :
    (s.setWindow t v b o).rot = s.rot := rfl
@[simp] theorem State.setWindow_tfa (t v b : Half) (o : Option Half) :
    (s.setWindow t v b o).tfa = t := rfl
@[simp] theorem State.setWindow_vsa (t v b : Half) (o : Option Half) :
    (s.setWindow t v b o).vsa = v := rfl
@[simp] theorem State.setWindow_bfa (t v b : Half) (o : Option Half) :
    (s.setWindow t v b o).bfa = b := rfl
@[simp] theorem State.setWindow_ofs (t v b : Half) (o : Option Half) :
    (s.setWindow t v b o).ofs = o := rfl
@[simp] theorem State.setWindow_devices (t v b : Half) (o : Option Half) :
    (s.setWindow t v b o).devices = s.devices := rfl
@[simp] theorem State.setWindow_result (t v b : Half) (o : Option Half) :
    (s.setWindow t v b o).result = s.result := rfl
@[simp] theorem State.setWindow_lastErr (t v b : Half) (o : Option Half) :
    (s.setWindow t v b o).lastErr = s.lastErr := rfl
@[simp] theorem State.setWindow_anyErr (t v b : Half) (o : Option Half) :
    (s.setWindow t v b o).anyErr = s.anyErr := rfl
@[simp] theorem State.setWindow_bb (t v b : Half) (o : Option Half) :
    (s.setWindow t v b o).bb = s.bb := rfl
@[simp] theorem State.setWindow_pf (t v b : Half) (o : Option Half) :
    (s.setWindow t v b o).pf = s.pf := rfl
@[simp] theorem State.setWindow_trace (t v b : Half) (o : Option Half) :
    (s.setWindow t v b o).trace = s.trace := rfl
@[simp] theorem State.setWindow_lw (t v b : Half) (o : Option Half) : (s.setWindow t v b o).lw = s.lw := rfl
@[simp] theorem State.setWindow_lh (t v b : Half) (o : Option Half) : (s.setWindow t v b o).lh = s.lh := rfl

/-! ### `State.setOffset` (44 R193) -/

@[simp] theorem State.setOffset_par (o : Option Half) : (s.setOffset o).par = s.par := rfl
@[simp] theorem State.setOffset_stream (o : Option Half) : (s.setOffset o).stream = s.stream := rfl
@[simp] theorem State.setOffset_cp (o : Option Half) : (s.setOffset o).cp = s.cp := rfl
@[simp] theorem State.setOffset_held (o : Option Half) : (s.setOffset o).held = s.held := rfl
@[simp] theorem State.setOffset_waiting (o : Option Half) :
    (s.setOffset o).waiting = s.waiting := rfl
@[simp] theorem State.setOffset_stage (o : Option Half) : (s.setOffset o).stage = s.stage := rfl
@[simp] theorem State.setOffset_busReady (o : Option Half) :
    (s.setOffset o).busReady = s.busReady := rfl
@[simp] theorem State.setOffset_busFatal (o : Option Half) :
    (s.setOffset o).busFatal = s.busFatal := rfl
@[simp] theorem State.setOffset_ctl (o : Option Half) : (s.setOffset o).ctl = s.ctl := rfl
@[simp] theorem State.setOffset_ng (o : Option Half) : (s.setOffset o).ng = s.ng := rfl
@[simp] theorem State.setOffset_groups (o : Option Half) : (s.setOffset o).groups = s.groups := rfl
@[simp] theorem State.setOffset_last (o : Option Half) : (s.setOffset o).last = s.last := rfl
@[simp] theorem State.setOffset_rot (o : Option Half) : (s.setOffset o).rot = s.rot := rfl
@[simp] theorem State.setOffset_tfa (o : Option Half) : (s.setOffset o).tfa = s.tfa := rfl
@[simp] theorem State.setOffset_vsa (o : Option Half) : (s.setOffset o).vsa = s.vsa := rfl
@[simp] theorem State.setOffset_bfa (o : Option Half) : (s.setOffset o).bfa = s.bfa := rfl
@[simp] theorem State.setOffset_ofs (o : Option Half) : (s.setOffset o).ofs = o := rfl
@[simp] theorem State.setOffset_devices (o : Option Half) :
    (s.setOffset o).devices = s.devices := rfl
@[simp] theorem State.setOffset_result (o : Option Half) : (s.setOffset o).result = s.result := rfl
@[simp] theorem State.setOffset_lastErr (o : Option Half) :
    (s.setOffset o).lastErr = s.lastErr := rfl
@[simp] theorem State.setOffset_anyErr (o : Option Half) : (s.setOffset o).anyErr = s.anyErr := rfl
@[simp] theorem State.setOffset_bb (o : Option Half) : (s.setOffset o).bb = s.bb := rfl
@[simp] theorem State.setOffset_pf (o : Option Half) : (s.setOffset o).pf = s.pf := rfl
@[simp] theorem State.setOffset_trace (o : Option Half) : (s.setOffset o).trace = s.trace := rfl
@[simp] theorem State.setOffset_lw (o : Option Half) : (s.setOffset o).lw = s.lw := rfl
@[simp] theorem State.setOffset_lh (o : Option Half) : (s.setOffset o).lh = s.lh := rfl

/-! ### `State.setDevice` (45 R221, R223) -/

@[simp] theorem State.setDevice_par (d : Nat) (e : Device) : (s.setDevice d e).par = s.par := rfl
@[simp] theorem State.setDevice_stream (d : Nat) (e : Device) :
    (s.setDevice d e).stream = s.stream := rfl
@[simp] theorem State.setDevice_cp (d : Nat) (e : Device) : (s.setDevice d e).cp = s.cp := rfl
@[simp] theorem State.setDevice_held (d : Nat) (e : Device) : (s.setDevice d e).held = s.held := rfl
@[simp] theorem State.setDevice_waiting (d : Nat) (e : Device) :
    (s.setDevice d e).waiting = s.waiting := rfl
@[simp] theorem State.setDevice_stage (d : Nat) (e : Device) :
    (s.setDevice d e).stage = s.stage := rfl
@[simp] theorem State.setDevice_busReady (d : Nat) (e : Device) :
    (s.setDevice d e).busReady = s.busReady := rfl
@[simp] theorem State.setDevice_busFatal (d : Nat) (e : Device) :
    (s.setDevice d e).busFatal = s.busFatal := rfl
@[simp] theorem State.setDevice_ctl (d : Nat) (e : Device) : (s.setDevice d e).ctl = s.ctl := rfl
@[simp] theorem State.setDevice_ng (d : Nat) (e : Device) : (s.setDevice d e).ng = s.ng := rfl
@[simp] theorem State.setDevice_groups (d : Nat) (e : Device) :
    (s.setDevice d e).groups = s.groups := rfl
@[simp] theorem State.setDevice_last (d : Nat) (e : Device) : (s.setDevice d e).last = s.last := rfl
@[simp] theorem State.setDevice_rot (d : Nat) (e : Device) : (s.setDevice d e).rot = s.rot := rfl
@[simp] theorem State.setDevice_tfa (d : Nat) (e : Device) : (s.setDevice d e).tfa = s.tfa := rfl
@[simp] theorem State.setDevice_vsa (d : Nat) (e : Device) : (s.setDevice d e).vsa = s.vsa := rfl
@[simp] theorem State.setDevice_bfa (d : Nat) (e : Device) : (s.setDevice d e).bfa = s.bfa := rfl
@[simp] theorem State.setDevice_ofs (d : Nat) (e : Device) : (s.setDevice d e).ofs = s.ofs := rfl
@[simp] theorem State.setDevice_devices (d : Nat) (e : Device) :
    (s.setDevice d e).devices = s.devices.setIfInBounds d e := rfl
@[simp] theorem State.setDevice_result (d : Nat) (e : Device) :
    (s.setDevice d e).result = s.result := rfl
@[simp] theorem State.setDevice_lastErr (d : Nat) (e : Device) :
    (s.setDevice d e).lastErr = s.lastErr := rfl
@[simp] theorem State.setDevice_anyErr (d : Nat) (e : Device) :
    (s.setDevice d e).anyErr = s.anyErr := rfl
@[simp] theorem State.setDevice_bb (d : Nat) (e : Device) : (s.setDevice d e).bb = s.bb := rfl
@[simp] theorem State.setDevice_pf (d : Nat) (e : Device) : (s.setDevice d e).pf = s.pf := rfl
@[simp] theorem State.setDevice_trace (d : Nat) (e : Device) :
    (s.setDevice d e).trace = s.trace := rfl
@[simp] theorem State.setDevice_lw (d : Nat) (e : Device) : (s.setDevice d e).lw = s.lw := rfl
@[simp] theorem State.setDevice_lh (d : Nat) (e : Device) : (s.setDevice d e).lh = s.lh := rfl

/-! ### `State.setBacking` (44 R197) -/

@[simp] theorem State.setBacking_par (m : Memory) : (s.setBacking m).par = s.par := rfl
@[simp] theorem State.setBacking_stream (m : Memory) : (s.setBacking m).stream = s.stream := rfl
@[simp] theorem State.setBacking_cp (m : Memory) : (s.setBacking m).cp = s.cp := rfl
@[simp] theorem State.setBacking_held (m : Memory) : (s.setBacking m).held = s.held := rfl
@[simp] theorem State.setBacking_waiting (m : Memory) : (s.setBacking m).waiting = s.waiting := rfl
@[simp] theorem State.setBacking_stage (m : Memory) : (s.setBacking m).stage = s.stage := rfl
@[simp] theorem State.setBacking_busReady (m : Memory) :
    (s.setBacking m).busReady = s.busReady := rfl
@[simp] theorem State.setBacking_busFatal (m : Memory) :
    (s.setBacking m).busFatal = s.busFatal := rfl
@[simp] theorem State.setBacking_ctl (m : Memory) : (s.setBacking m).ctl = s.ctl := rfl
@[simp] theorem State.setBacking_ng (m : Memory) : (s.setBacking m).ng = s.ng := rfl
@[simp] theorem State.setBacking_groups (m : Memory) : (s.setBacking m).groups = s.groups := rfl
@[simp] theorem State.setBacking_last (m : Memory) : (s.setBacking m).last = s.last := rfl
@[simp] theorem State.setBacking_rot (m : Memory) : (s.setBacking m).rot = s.rot := rfl
@[simp] theorem State.setBacking_tfa (m : Memory) : (s.setBacking m).tfa = s.tfa := rfl
@[simp] theorem State.setBacking_vsa (m : Memory) : (s.setBacking m).vsa = s.vsa := rfl
@[simp] theorem State.setBacking_bfa (m : Memory) : (s.setBacking m).bfa = s.bfa := rfl
@[simp] theorem State.setBacking_ofs (m : Memory) : (s.setBacking m).ofs = s.ofs := rfl
@[simp] theorem State.setBacking_devices (m : Memory) : (s.setBacking m).devices = s.devices := rfl
@[simp] theorem State.setBacking_result (m : Memory) : (s.setBacking m).result = s.result := rfl
@[simp] theorem State.setBacking_lastErr (m : Memory) : (s.setBacking m).lastErr = s.lastErr := rfl
@[simp] theorem State.setBacking_anyErr (m : Memory) : (s.setBacking m).anyErr = s.anyErr := rfl
@[simp] theorem State.setBacking_bb (m : Memory) : (s.setBacking m).bb = m := rfl
@[simp] theorem State.setBacking_pf (m : Memory) : (s.setBacking m).pf = s.pf := rfl
@[simp] theorem State.setBacking_trace (m : Memory) : (s.setBacking m).trace = s.trace := rfl
@[simp] theorem State.setBacking_lw (m : Memory) : (s.setBacking m).lw = s.lw := rfl
@[simp] theorem State.setBacking_lh (m : Memory) : (s.setBacking m).lh = s.lh := rfl

/-! ### `State.setFrame` (44 R199) -/

@[simp] theorem State.setFrame_par (m : Memory) : (s.setFrame m).par = s.par := rfl
@[simp] theorem State.setFrame_stream (m : Memory) : (s.setFrame m).stream = s.stream := rfl
@[simp] theorem State.setFrame_cp (m : Memory) : (s.setFrame m).cp = s.cp := rfl
@[simp] theorem State.setFrame_held (m : Memory) : (s.setFrame m).held = s.held := rfl
@[simp] theorem State.setFrame_waiting (m : Memory) : (s.setFrame m).waiting = s.waiting := rfl
@[simp] theorem State.setFrame_stage (m : Memory) : (s.setFrame m).stage = s.stage := rfl
@[simp] theorem State.setFrame_busReady (m : Memory) : (s.setFrame m).busReady = s.busReady := rfl
@[simp] theorem State.setFrame_busFatal (m : Memory) : (s.setFrame m).busFatal = s.busFatal := rfl
@[simp] theorem State.setFrame_ctl (m : Memory) : (s.setFrame m).ctl = s.ctl := rfl
@[simp] theorem State.setFrame_ng (m : Memory) : (s.setFrame m).ng = s.ng := rfl
@[simp] theorem State.setFrame_groups (m : Memory) : (s.setFrame m).groups = s.groups := rfl
@[simp] theorem State.setFrame_last (m : Memory) : (s.setFrame m).last = s.last := rfl
@[simp] theorem State.setFrame_rot (m : Memory) : (s.setFrame m).rot = s.rot := rfl
@[simp] theorem State.setFrame_tfa (m : Memory) : (s.setFrame m).tfa = s.tfa := rfl
@[simp] theorem State.setFrame_vsa (m : Memory) : (s.setFrame m).vsa = s.vsa := rfl
@[simp] theorem State.setFrame_bfa (m : Memory) : (s.setFrame m).bfa = s.bfa := rfl
@[simp] theorem State.setFrame_ofs (m : Memory) : (s.setFrame m).ofs = s.ofs := rfl
@[simp] theorem State.setFrame_devices (m : Memory) : (s.setFrame m).devices = s.devices := rfl
@[simp] theorem State.setFrame_result (m : Memory) : (s.setFrame m).result = s.result := rfl
@[simp] theorem State.setFrame_lastErr (m : Memory) : (s.setFrame m).lastErr = s.lastErr := rfl
@[simp] theorem State.setFrame_anyErr (m : Memory) : (s.setFrame m).anyErr = s.anyErr := rfl
@[simp] theorem State.setFrame_bb (m : Memory) : (s.setFrame m).bb = s.bb := rfl
@[simp] theorem State.setFrame_pf (m : Memory) : (s.setFrame m).pf = m := rfl
@[simp] theorem State.setFrame_trace (m : Memory) : (s.setFrame m).trace = s.trace := rfl
@[simp] theorem State.setFrame_lw (m : Memory) : (s.setFrame m).lw = s.lw := rfl
@[simp] theorem State.setFrame_lh (m : Memory) : (s.setFrame m).lh = s.lh := rfl

/-! ### `State.consume` (20 R51) -/

@[simp] theorem State.consume_par (n : Nat) : (s.consume n).par = s.par := rfl
@[simp] theorem State.consume_stream (n : Nat) : (s.consume n).stream = s.stream := rfl
@[simp] theorem State.consume_cp (n : Nat) : (s.consume n).cp = s.cp + (n - s.held.length) := rfl
@[simp] theorem State.consume_held (n : Nat) : (s.consume n).held = [] := rfl
@[simp] theorem State.consume_waiting (n : Nat) : (s.consume n).waiting = false := rfl
@[simp] theorem State.consume_stage (n : Nat) : (s.consume n).stage = s.stage := rfl
@[simp] theorem State.consume_busReady (n : Nat) : (s.consume n).busReady = s.busReady := rfl
@[simp] theorem State.consume_busFatal (n : Nat) : (s.consume n).busFatal = s.busFatal := rfl
@[simp] theorem State.consume_ctl (n : Nat) : (s.consume n).ctl = s.ctl := rfl
@[simp] theorem State.consume_ng (n : Nat) : (s.consume n).ng = s.ng := rfl
@[simp] theorem State.consume_groups (n : Nat) : (s.consume n).groups = s.groups := rfl
@[simp] theorem State.consume_last (n : Nat) : (s.consume n).last = s.last := rfl
@[simp] theorem State.consume_rot (n : Nat) : (s.consume n).rot = s.rot := rfl
@[simp] theorem State.consume_tfa (n : Nat) : (s.consume n).tfa = s.tfa := rfl
@[simp] theorem State.consume_vsa (n : Nat) : (s.consume n).vsa = s.vsa := rfl
@[simp] theorem State.consume_bfa (n : Nat) : (s.consume n).bfa = s.bfa := rfl
@[simp] theorem State.consume_ofs (n : Nat) : (s.consume n).ofs = s.ofs := rfl
@[simp] theorem State.consume_devices (n : Nat) : (s.consume n).devices = s.devices := rfl
@[simp] theorem State.consume_result (n : Nat) : (s.consume n).result = s.result := rfl
@[simp] theorem State.consume_lastErr (n : Nat) : (s.consume n).lastErr = s.lastErr := rfl
@[simp] theorem State.consume_anyErr (n : Nat) : (s.consume n).anyErr = s.anyErr := rfl
@[simp] theorem State.consume_bb (n : Nat) : (s.consume n).bb = s.bb := rfl
@[simp] theorem State.consume_pf (n : Nat) : (s.consume n).pf = s.pf := rfl
@[simp] theorem State.consume_trace (n : Nat) : (s.consume n).trace = s.trace := rfl
@[simp] theorem State.consume_lw (n : Nat) : (s.consume n).lw = s.lw := rfl
@[simp] theorem State.consume_lh (n : Nat) : (s.consume n).lh = s.lh := rfl

/-! ### `State.hold` (20 R52) -/

@[simp] theorem State.hold_par : s.hold.par = s.par := rfl
@[simp] theorem State.hold_stream : s.hold.stream = s.stream := rfl
@[simp] theorem State.hold_cp : s.hold.cp = s.cp + (s.stream.drop s.cp).length := rfl
@[simp] theorem State.hold_held : s.hold.held = s.wordsAhead := rfl
@[simp] theorem State.hold_waiting : s.hold.waiting = true := rfl
@[simp] theorem State.hold_stage : s.hold.stage = s.stage := rfl
@[simp] theorem State.hold_busReady : s.hold.busReady = s.busReady := rfl
@[simp] theorem State.hold_busFatal : s.hold.busFatal = s.busFatal := rfl
@[simp] theorem State.hold_ctl : s.hold.ctl = s.ctl := rfl
@[simp] theorem State.hold_ng : s.hold.ng = s.ng := rfl
@[simp] theorem State.hold_groups : s.hold.groups = s.groups := rfl
@[simp] theorem State.hold_last : s.hold.last = s.last := rfl
@[simp] theorem State.hold_rot : s.hold.rot = s.rot := rfl
@[simp] theorem State.hold_tfa : s.hold.tfa = s.tfa := rfl
@[simp] theorem State.hold_vsa : s.hold.vsa = s.vsa := rfl
@[simp] theorem State.hold_bfa : s.hold.bfa = s.bfa := rfl
@[simp] theorem State.hold_ofs : s.hold.ofs = s.ofs := rfl
@[simp] theorem State.hold_devices : s.hold.devices = s.devices := rfl
@[simp] theorem State.hold_result : s.hold.result = s.result := rfl
@[simp] theorem State.hold_lastErr : s.hold.lastErr = s.lastErr := rfl
@[simp] theorem State.hold_anyErr : s.hold.anyErr = s.anyErr := rfl
@[simp] theorem State.hold_bb : s.hold.bb = s.bb := rfl
@[simp] theorem State.hold_pf : s.hold.pf = s.pf := rfl
@[simp] theorem State.hold_trace : s.hold.trace = s.trace := rfl
@[simp] theorem State.hold_lw : s.hold.lw = s.lw := rfl
@[simp] theorem State.hold_lh : s.hold.lh = s.lh := rfl

/-! ### `State.clearStatus` (10 R36) -/

@[simp] theorem State.clearStatus_par (v : Word) : (s.clearStatus v).par = s.par := rfl
@[simp] theorem State.clearStatus_stream (v : Word) : (s.clearStatus v).stream = s.stream := rfl
@[simp] theorem State.clearStatus_cp (v : Word) : (s.clearStatus v).cp = s.cp := rfl
@[simp] theorem State.clearStatus_held (v : Word) : (s.clearStatus v).held = s.held := rfl
@[simp] theorem State.clearStatus_waiting (v : Word) : (s.clearStatus v).waiting = s.waiting := rfl
@[simp] theorem State.clearStatus_stage (v : Word) : (s.clearStatus v).stage = s.stage := rfl
@[simp] theorem State.clearStatus_busReady (v : Word) :
    (s.clearStatus v).busReady = s.busReady := rfl
@[simp] theorem State.clearStatus_busFatal (v : Word) :
    (s.clearStatus v).busFatal = s.busFatal := rfl
@[simp] theorem State.clearStatus_ctl (v : Word) : (s.clearStatus v).ctl = s.ctl := rfl
@[simp] theorem State.clearStatus_ng (v : Word) : (s.clearStatus v).ng = s.ng := rfl
@[simp] theorem State.clearStatus_groups (v : Word) : (s.clearStatus v).groups = s.groups := rfl
@[simp] theorem State.clearStatus_last (v : Word) : (s.clearStatus v).last = s.last := rfl
@[simp] theorem State.clearStatus_rot (v : Word) : (s.clearStatus v).rot = s.rot := rfl
@[simp] theorem State.clearStatus_tfa (v : Word) : (s.clearStatus v).tfa = s.tfa := rfl
@[simp] theorem State.clearStatus_vsa (v : Word) : (s.clearStatus v).vsa = s.vsa := rfl
@[simp] theorem State.clearStatus_bfa (v : Word) : (s.clearStatus v).bfa = s.bfa := rfl
@[simp] theorem State.clearStatus_ofs (v : Word) : (s.clearStatus v).ofs = s.ofs := rfl
@[simp] theorem State.clearStatus_devices (v : Word) : (s.clearStatus v).devices = s.devices := rfl
@[simp] theorem State.clearStatus_result (v : Word) : (s.clearStatus v).result = s.result := rfl
@[simp] theorem State.clearStatus_lastErr (v : Word) : (s.clearStatus v).lastErr = s.lastErr := rfl
@[simp] theorem State.clearStatus_anyErr (v : Word) :
    (s.clearStatus v).anyErr = (s.anyErr && !v.getLsbD 4) := rfl
@[simp] theorem State.clearStatus_bb (v : Word) : (s.clearStatus v).bb = s.bb := rfl
@[simp] theorem State.clearStatus_pf (v : Word) : (s.clearStatus v).pf = s.pf := rfl
@[simp] theorem State.clearStatus_trace (v : Word) : (s.clearStatus v).trace = s.trace := rfl
@[simp] theorem State.clearStatus_lw (v : Word) : (s.clearStatus v).lw = s.lw := rfl
@[simp] theorem State.clearStatus_lh (v : Word) : (s.clearStatus v).lh = s.lh := rfl

end Sys2Proof.Machine
end

