-- ==== Sys2Proof/Laws/Bus.lean ====
section
/-! SUPPORT. What the pin masks, the lookup table, the control writes and the reference port model
do, each said once. -/

namespace Sys2Proof

theorem PortFamily.pins_pos (f : PortFamily) : 0 < f.pins := by cases f <;> decide

theorem PortFamily.pins_le (f : PortFamily) : f.pins ≤ 32 := by cases f <;> decide

end Sys2Proof

namespace Sys2Proof.Machine

/-! ### Pins -/

theorem pinBit_lt (p : Params) (n : Byte) : pinBit p n < p.family.pins :=
  Nat.mod_lt _ p.family.pins_pos

theorem pinBit_lt_32 (p : Params) (n : Byte) : pinBit p n < 32 :=
  lt_of_lt_of_le (pinBit_lt p n) p.family.pins_le

theorem pinGroup_lt_16 (p : Params) (n : Byte) : pinGroup p n < 16 := by
  have := n.isLt
  unfold pinGroup
  cases p.family <;> simp [PortFamily.pins] <;> omega

/-- A pin is its group and its bit (41 R110). -/
theorem pin_ext {p : Params} {m n : Byte} (hg : pinGroup p m = pinGroup p n)
    (hb : pinBit p m = pinBit p n) : m = n := by
  apply BitVec.eq_of_toNat_eq
  rw [← Nat.div_add_mod m.toNat p.family.pins, ← Nat.div_add_mod n.toNat p.family.pins]
  unfold pinGroup at hg
  unfold pinBit at hb
  rw [hg, hb]

/-- An addressable pin lies in one of the instance's groups (00 R6). -/
theorem pinGroup_lt_numGroups {p : Params} {n : Byte} (h : n.toNat < p.numPins) :
    pinGroup p n < p.numGroups := by
  unfold pinGroup Params.numGroups
  have := p.family.pins_pos
  rw [Nat.div_lt_iff_lt_mul this]
  have h1 := Nat.div_add_mod (p.numPins + p.family.pins - 1) p.family.pins
  have h2 := Nat.mod_lt (p.numPins + p.family.pins - 1) this
  rw [Nat.mul_comm]
  omega

/-- `pinMask` has the pin's own bit only. -/
@[simp] theorem pinMask_getLsbD (p : Params) (n : Byte) (b : Nat) :
    (pinMask p n).getLsbD b = decide (pinBit p n = b) := by
  have := pinBit_lt_32 p n
  simp only [pinMask, BitVec.getLsbD_shiftLeft, BitVec.getLsbD_one]
  by_cases h : pinBit p n = b
  · subst h; simp [this]
  · by_cases h1 : b < pinBit p n <;> simp [h, h1]; omega

/-! ### Masks and the lookup table -/

theorem foldl_or_getLsbD {α : Type} (c : α → Bool) (f : α → Word) (es : List α) (m : Word)
    (b : Nat) :
    (es.foldl (fun m e => if c e then m ||| f e else m) m).getLsbD b =
      (m.getLsbD b || es.any fun e => c e && (f e).getLsbD b) := by
  induction es generalizing m with
  | nil => simp
  | cons e es ih =>
    rw [List.foldl_cons, ih]
    by_cases h : c e <;> simp [h, Bool.or_assoc]

/-- Everything `groupMask` says: bit `b` is set exactly when a wanted pin of group `g` has it. -/
theorem groupMask_getLsbD (p : Params) (g : Nat) (want : Nat → Bool) (pins : List Byte) (b : Nat) :
    (groupMask p g want pins).getLsbD b = true ↔
      ∃ (k : Nat) (h : k < pins.length),
        want k = true ∧ pinGroup p pins[k] = g ∧ pinBit p pins[k] = b := by
  unfold groupMask
  rw [foldl_or_getLsbD (fun e : Byte × Nat => want e.2 && pinGroup p e.1 == g)
    (fun e => pinMask p e.1)]
  simp only [BitVec.getLsbD_zero, Bool.false_or, List.any_eq_true, Prod.exists, pinMask_getLsbD,
    Bool.and_eq_true, beq_iff_eq, decide_eq_true_eq, List.mem_zipIdx_iff_getElem?,
    List.getElem?_eq_some_iff]
  constructor
  · rintro ⟨n, k, ⟨hk, h⟩, ⟨hw, hg⟩, hb⟩
    rw [← h] at hg hb
    exact ⟨k, hk, hw, hg, hb⟩
  · rintro ⟨k, hk, hw, hg, hb⟩; exact ⟨_, k, ⟨hk, rfl⟩, ⟨hw, hg⟩, hb⟩

/-- `SETM` is inside `FULL`. -/
theorem lutEntry_setMask_sub (p : Params) (g : Nat) (pins : List Byte) (v : Byte) (b : Nat)
    (h : (lutEntry p g pins v).setMask.getLsbD b = true) :
    (fullMask p g pins).getLsbD b = true := by
  simp only [lutEntry, groupMask_getLsbD] at h
  simp only [fullMask, groupMask_getLsbD]
  obtain ⟨k, hk, _, hg⟩ := h
  exact ⟨k, hk, trivial, hg⟩

/-- `SETM` and `CLRM` split `FULL` (10 R25). -/
theorem lutEntry_split (p : Params) (g : Nat) (pins : List Byte) (v : Byte) :
    (lutEntry p g pins v).setMask ||| (lutEntry p g pins v).clrMask = fullMask p g pins ∧
      (lutEntry p g pins v).setMask &&& (lutEntry p g pins v).clrMask = 0#32 := by
  have h : ∀ b, (lutEntry p g pins v).setMask.getLsbD b = true →
      (fullMask p g pins).getLsbD b = true := lutEntry_setMask_sub p g pins v
  have hc : (lutEntry p g pins v).clrMask =
      fullMask p g pins ^^^ (lutEntry p g pins v).setMask := rfl
  rw [hc]
  constructor <;> apply BitVec.eq_of_getLsbD_eq <;> intro b _ <;> have := h b <;>
    cases h1 : (lutEntry p g pins v).setMask.getLsbD b <;>
    cases h2 : (fullMask p g pins).getLsbD b <;> simp_all

/-- `FULL` has only the bits of a group's pins (10 R25). -/
theorem fullMask_lt (p : Params) (g : Nat) (pins : List Byte) :
    (fullMask p g pins).toNat < 2 ^ p.family.pins := by
  apply Nat.lt_pow_two_of_testBit
  intro b hb
  by_contra h
  rw [Bool.not_eq_false, BitVec.testBit_toNat] at h
  simp only [fullMask, groupMask_getLsbD] at h
  obtain ⟨k, hk, _, _, h⟩ := h
  have := pinBit_lt p pins[k]
  omega

@[simp] theorem mem_spannedGroups {p : Params} {pins : List Byte} {g : Nat} :
    g ∈ spannedGroups p pins ↔ ∃ n ∈ pins, pinGroup p n = g := by
  simp only [spannedGroups, List.mem_filter, List.mem_range, List.any_eq_true, beq_iff_eq]
  constructor
  · exact fun h => h.2
  · rintro ⟨n, hn, rfl⟩; exact ⟨pinGroup_lt_16 p n, n, hn, rfl⟩

/-- The spanned groups ascend strictly (41 R118). -/
theorem spannedGroups_pairwise (p : Params) (pins : List Byte) :
    (spannedGroups p pins).Pairwise (· < ·) :=
  List.Pairwise.filter _ List.pairwise_lt_range

/-- No more groups than pins. -/
theorem spannedGroups_length_le (p : Params) (pins : List Byte) :
    (spannedGroups p pins).length ≤ pins.length := by
  have hn : (spannedGroups p pins).Nodup := (spannedGroups_pairwise p pins).imp Nat.ne_of_lt
  have hs : (spannedGroups p pins).Subperm (pins.map (pinGroup p)) :=
    hn.subperm fun g hg => by
      obtain ⟨n, hn, rfl⟩ := mem_spannedGroups.1 hg
      exact List.mem_map.2 ⟨n, hn, rfl⟩
  simpa using hs.length_le

@[simp] theorem buildLut_length (p : Params) (pins : List Byte) :
    (buildLut p pins).length = (spannedGroups p pins).length := by simp [buildLut]

/-- Everything a table entry can be: the masks of one spanned group. -/
theorem mem_buildLut {p : Params} {pins : List Byte} {g : LutGroup} :
    g ∈ buildLut p pins ↔ ∃ n ∈ pins, g = lutGroup p pins (pinGroup p n) := by
  simp only [buildLut, List.mem_map, mem_spannedGroups]
  constructor
  · rintro ⟨k, ⟨n, hn, rfl⟩, rfl⟩; exact ⟨n, hn, rfl⟩
  · rintro ⟨n, hn, rfl⟩; exact ⟨_, ⟨n, hn, rfl⟩, rfl⟩

@[simp] theorem lutGroup_entry (p : Params) (pins : List Byte) (g : Nat) (v : Byte) :
    (lutGroup p pins g).entry v = lutEntry p g pins v := by
  have := v.isLt
  simp [LutGroup.entry, lutGroup, List.getD_eq_getElem?_getD, this]

/-! ### Control writes -/

/-- Every write of `regmap` is one bit of the pin's own group: its address is the set or clear
register of the group (41 R117). -/
theorem regmap_cases (p : Params) (n : Byte) (pol : Bool) (w : GpioWrite)
    (h : w = (regmap p n pol).act ∨ w = (regmap p n pol).deact) :
    (p.family = .pins32 ∧ w.value = pinMask p n ∧
      (w.addr = p.setAddr (pinGroup p n) ∨ w.addr = p.clrAddr (pinGroup p n))) ∨
    (p.family = .pins16 ∧ w.addr = p.bsrrAddr (pinGroup p n) ∧
      (w.value = pinMask p n ∨ w.value = pinMask p n <<< 16)) := by
  unfold regmap at h
  cases hf : p.family <;> cases pol <;> simp [hf] at h ⊢ <;> rcases h with rfl | rfl <;> simp

/-- The writes that are neither set nor cleared by polarity: activating under one polarity is
deactivating under the other (41 R117). -/
theorem regmap_not (p : Params) (n : Byte) (pol : Bool) :
    (regmap p n (!pol)).act = (regmap p n pol).deact := by
  unfold regmap
  cases p.family <;> cases pol <;> rfl

/-! ### Addresses -/

theorem getD_mem {α : Type} {xs : List α} {k : Nat} (d : α) (h : k < xs.length) :
    xs.getD k d ∈ xs := by
  rw [List.getD_eq_getElem?_getD, List.getElem?_eq_getElem h]
  exact List.getElem_mem h

/-- A group's registers are registers of the instance (00 R6, 20 R56). -/
theorem setAddr_mem {p : Params} (hp : p.Legal) (hf : p.family = .pins32) {g : Nat}
    (hg : g < p.numGroups) : p.setAddr g ∈ p.gpioAddrs := by
  have := hp.2.1.1 hf
  simp only [Params.gpioAddrs, hf]
  exact List.mem_append_left _ (getD_mem _ (by omega))

theorem clrAddr_mem {p : Params} (hp : p.Legal) (hf : p.family = .pins32) {g : Nat}
    (hg : g < p.numGroups) : p.clrAddr g ∈ p.gpioAddrs := by
  have := hp.2.1.1 hf
  simp only [Params.gpioAddrs, hf]
  exact List.mem_append_right _ (getD_mem _ (by omega))

theorem bsrrAddr_mem {p : Params} (hp : p.Legal) (hf : p.family = .pins16) {g : Nat}
    (hg : g < p.numGroups) : p.bsrrAddr g ∈ p.gpioAddrs := by
  have := hp.2.1.2 hf
  simp only [Params.gpioAddrs, hf]
  exact getD_mem _ (by omega)

/-- Distinct groups have distinct registers (92 D10). -/
theorem getD_inj {xs : List Word} (hn : xs.Nodup) {j k : Nat} (hj : j < xs.length)
    (hk : k < xs.length) (h : xs.getD j 0 = xs.getD k 0) : j = k := by
  rw [List.getD_eq_getElem?_getD, List.getD_eq_getElem?_getD, List.getElem?_eq_getElem hj,
    List.getElem?_eq_getElem hk] at h
  exact (List.Nodup.getElem_inj_iff hn).1 h

theorem setAddr_inj {p : Params} (hp : p.Legal) (hf : p.family = .pins32) {g k : Nat}
    (hg : g < p.numGroups) (hk : k < p.numGroups) (h : p.setAddr g = p.setAddr k) : g = k := by
  have ht := hp.2.1.1 hf
  have hn := hp.2.2.2
  simp only [Params.gpioAddrs, hf, List.nodup_append] at hn
  exact getD_inj hn.1 (by omega) (by omega) h

theorem clrAddr_inj {p : Params} (hp : p.Legal) (hf : p.family = .pins32) {g k : Nat}
    (hg : g < p.numGroups) (hk : k < p.numGroups) (h : p.clrAddr g = p.clrAddr k) : g = k := by
  have ht := hp.2.1.1 hf
  have hn := hp.2.2.2
  simp only [Params.gpioAddrs, hf, List.nodup_append] at hn
  exact getD_inj hn.2.1 (by omega) (by omega) h

theorem bsrrAddr_inj {p : Params} (hp : p.Legal) (hf : p.family = .pins16) {g k : Nat}
    (hg : g < p.numGroups) (hk : k < p.numGroups) (h : p.bsrrAddr g = p.bsrrAddr k) : g = k := by
  have ht := hp.2.1.2 hf
  have hn := hp.2.2.2
  simp only [Params.gpioAddrs, hf] at hn
  exact getD_inj hn (by omega) (by omega) h

/-- No register is both a set and a clear register (92 D10). -/
theorem setAddr_ne_clrAddr {p : Params} (hp : p.Legal) (hf : p.family = .pins32) {g k : Nat}
    (hg : g < p.numGroups) (hk : k < p.numGroups) : p.setAddr g ≠ p.clrAddr k := by
  have ht := hp.2.1.1 hf
  have hn := hp.2.2.2
  simp only [Params.gpioAddrs, hf, List.nodup_append] at hn
  exact hn.2.2 _ (getD_mem _ (by omega)) _ (getD_mem _ (by omega))

/-! ### The port model -/

@[simp] theorem portRun_nil (p : Params) (out : Latches) : portRun p out [] = out := rfl

@[simp] theorem portRun_cons (p : Params) (out : Latches) (w : GpioWrite) (ws : List GpioWrite) :
    portRun p out (w :: ws) = portRun p (portWrite p out w) ws := rfl

@[simp] theorem portRun_append (p : Params) (out : Latches) (ws vs : List GpioWrite) :
    portRun p out (ws ++ vs) = portRun p (portRun p out ws) vs := by
  simp [portRun, List.foldl_append]

/-- A write to the set register of a group (20 R57). -/
theorem portWrite_set {p : Params} (hp : p.Legal) (hf : p.family = .pins32) (out : Latches)
    {k : Nat} (hk : k < p.numGroups) (v : Word) (g : Nat) :
    portWrite p out ⟨p.setAddr k, v⟩ g = if g = k then out g ||| v else out g := by
  unfold portWrite
  by_cases hg : g < p.numGroups
  · simp only [hg, ↓reduceIte, hf]
    by_cases h : g = k
    · subst h; simp
    · rw [if_neg fun e => h (setAddr_inj hp hf hg hk e.symm),
        if_neg (setAddr_ne_clrAddr hp hf hk hg), if_neg h]
  · rw [if_neg hg, if_neg (by omega)]

/-- A write to the clear register of a group (20 R57). -/
theorem portWrite_clr {p : Params} (hp : p.Legal) (hf : p.family = .pins32) (out : Latches)
    {k : Nat} (hk : k < p.numGroups) (v : Word) (g : Nat) :
    portWrite p out ⟨p.clrAddr k, v⟩ g = if g = k then out g &&& ~~~v else out g := by
  unfold portWrite
  by_cases hg : g < p.numGroups
  · simp only [hg, ↓reduceIte, hf]
    rw [if_neg (setAddr_ne_clrAddr hp hf hg hk).symm]
    by_cases h : g = k
    · subst h; simp
    · rw [if_neg fun e => h (clrAddr_inj hp hf hg hk e.symm), if_neg h]
  · rw [if_neg hg, if_neg (by omega)]

/-- A write to the combined register of a port (20 R57). -/
theorem portWrite_bsrr {p : Params} (hp : p.Legal) (hf : p.family = .pins16) (out : Latches)
    {k : Nat} (hk : k < p.numGroups) (v : Word) (g : Nat) :
    portWrite p out ⟨p.bsrrAddr k, v⟩ g =
      if g = k then (out g &&& ~~~(v >>> 16)) ||| (v &&& 0xFFFF#32) else out g := by
  unfold portWrite
  by_cases hg : g < p.numGroups
  · simp only [hg, ↓reduceIte, hf]
    by_cases h : g = k
    · subst h; simp
    · rw [if_neg fun e => h (bsrrAddr_inj hp hf hg hk e.symm), if_neg h]
  · rw [if_neg hg, if_neg (by omega)]

/-! ### Strobes -/

@[simp] theorem State.strobes_nil (s : State) (last : Option Byte) : s.strobes last [] = [] := rfl

@[simp] theorem State.strobes_cons (s : State) (last : Option Byte) (v : Byte) (vs : List Byte) :
    s.strobes last (v :: vs) = s.strobe last v ++ s.strobes (some v) vs := rfl

/-- `LAST` after a sequence of bytes is its last byte, or the old value for no byte (42 R145). -/
@[simp] theorem lastAfter_nil (last : Option Byte) : lastAfter last [] = last := rfl

@[simp] theorem lastAfter_cons (last : Option Byte) (v : Byte) (vs : List Byte) :
    lastAfter last (v :: vs) = lastAfter (some v) vs := rfl

@[simp] theorem lastAfter_append (last : Option Byte) (us vs : List Byte) :
    lastAfter last (us ++ vs) = lastAfter (lastAfter last us) vs := by
  simp [lastAfter, List.foldl_append]

/-- The number of writes of one group (42 R147). -/
theorem dataWrite_length (p : Params) (v : Byte) (g : LutGroup) :
    (dataWrite p v g).length = if p.family = .pins32 then 2 else 1 := by
  unfold dataWrite
  cases p.family <;> rfl

end Sys2Proof.Machine
end

