-- ==== Sys2Proof/Laws/Word.lean ====
section
/-! SUPPORT. Fields and bits of a concatenation of fields. -/

namespace Sys2Proof

@[simp] theorem extractLsb'_asWord {w : Nat} (x : BitVec w) (h : w = 32) (lo len : Nat) :
    (asWord x h).extractLsb' lo len = x.extractLsb' lo len := by
  subst h; rfl

@[simp] theorem getLsbD_asWord {w : Nat} (x : BitVec w) (h : w = 32) (i : Nat) :
    (asWord x h).getLsbD i = x.getLsbD i := by
  subst h; rfl

@[simp] theorem toNat_asWord {w : Nat} (x : BitVec w) (h : w = 32) :
    (asWord x h).toNat = x.toNat := by
  subst h; rfl

/-- A concatenation as a sum of its fields. -/
theorem toNat_append_add {n m : Nat} (a : BitVec n) (b : BitVec m) :
    (a ++ b).toNat = a.toNat * 2 ^ m + b.toNat := by
  rw [BitVec.toNat_append, ← Nat.shiftLeft_add_eq_or_of_lt b.isLt, Nat.shiftLeft_eq]

/-- A field that lies in the low part of a concatenation. -/
theorem extractLsb'_append_low {n m len : Nat} (a : BitVec n) (b : BitVec m) (lo : Nat)
    (h : lo + len ≤ m) : (a ++ b).extractLsb' lo len = b.extractLsb' lo len := by
  ext i hi
  simp only [BitVec.getElem_extractLsb', BitVec.getLsbD_append]
  rw [if_pos (by omega)]

/-- A field that lies in the high part of a concatenation. -/
theorem extractLsb'_append_high {n m len : Nat} (a : BitVec n) (b : BitVec m) (lo : Nat)
    (h : m ≤ lo) : (a ++ b).extractLsb' lo len = a.extractLsb' (lo - m) len := by
  ext i hi
  simp only [BitVec.getElem_extractLsb', BitVec.getLsbD_append]
  rw [if_neg (by omega)]
  congr 1
  omega

theorem getLsbD_append_low {n m : Nat} (a : BitVec n) (b : BitVec m) (i : Nat) (h : i < m) :
    (a ++ b).getLsbD i = b.getLsbD i := by
  rw [BitVec.getLsbD_append, if_pos h]

theorem getLsbD_append_high {n m : Nat} (a : BitVec n) (b : BitVec m) (i : Nat) (h : m ≤ i) :
    (a ++ b).getLsbD i = a.getLsbD (i - m) := by
  rw [BitVec.getLsbD_append, if_neg (by omega)]

/-- Two words with the same fields above and below bit `k` are equal. -/
theorem word_eq_of_fields {v w : Word} (k : Nat) (hk : k ≤ 32)
    (h1 : v.extractLsb' k (32 - k) = w.extractLsb' k (32 - k))
    (h2 : v.extractLsb' 0 k = w.extractLsb' 0 k) : v = w := by
  ext i hi
  by_cases h : i < k
  · have := congrArg (fun x => x.getLsbD i) h2
    simpa [h, ← BitVec.getLsbD_eq_getElem] using this
  · have := congrArg (fun x => x.getLsbD (i - k)) h1
    simp only [BitVec.getLsbD_extractLsb', show k + (i - k) = i by omega,
      show i - k < 32 - k by omega, decide_true, Bool.true_and] at this
    simpa [← BitVec.getLsbD_eq_getElem] using this

end Sys2Proof
end

