-- ==== Sys2Proof/Laws/Decode.lean ====
section
/-! SUPPORT. The pieces of the decoder and the encoder, each undone by the other: payload packing,
roles, capabilities, and a word as the concatenation of its fields. -/

namespace Sys2Proof

/-! ### Payload (20 R54, 30 R84) -/

theorem packBytes_length (bs : List Byte) : (packBytes bs).length = payloadWords bs.length := by
  fun_induction packBytes bs <;> simp_all [payloadWords]; omega

theorem wordBytes_bytesWord (a b c d : Byte) : wordBytes (bytesWord a b c d) = [a, b, c, d] := by
  unfold wordBytes bytesWord
  simp (disch := omega) only [extractLsb'_asWord, extractLsb'_append_low, extractLsb'_append_high,
    -Nat.reduceAdd, -Nat.reduceSub]
  simp

/-- Packed bytes unpack to themselves and then padding. -/
theorem unpackBytes_packBytes (bs : List Byte) : ∃ pad, unpackBytes (packBytes bs) = bs ++ pad := by
  fun_induction packBytes bs <;> simp_all [unpackBytes, wordBytes_bytesWord]

theorem payload_packBytes (bs : List Byte) : payload bs.length (packBytes bs) = .ok bs := by
  obtain ⟨pad, h⟩ := unpackBytes_packBytes bs
  simp [payload, h]

@[simp] theorem unpackBytes_length (ws : List Word) : (unpackBytes ws).length = 4 * ws.length := by
  induction ws with
  | nil => rfl
  | cons w ws ih => simp_all [unpackBytes, wordBytes]; omega

/-- Everything `payload` answers: the first `n` bytes, or `truncated` where there are fewer. -/
theorem payload_eq_ok {n : Nat} {ws : List Word} {bs : List Byte} :
    payload n ws = .ok bs ↔ n ≤ 4 * ws.length ∧ bs = (unpackBytes ws).take n := by
  unfold payload
  rw [unpackBytes_length]
  split_ifs with h
  · simp; omega
  · simp [eq_comm]; omega

/-! ### Roles and capabilities (30 R82) -/

theorem decodeRole_encodeRole (r : Role) : decodeRole (encodeRole r) = some r := by
  cases r with
  | data k => revert k; decide
  | _ => decide

theorem encodeRole_of_decodeRole {r : BitVec 4} {x : Role} (h : decodeRole r = some x) :
    encodeRole x = r := by
  have key : ∀ (r : BitVec 4) (y : Role), decodeRole r = some y → encodeRole y = r := by
    intro r y
    unfold decodeRole
    revert r
    cases y <;> decide +revert
  exact key r x h

/-- A role field is refused exactly for the codes 11 to 15. -/
theorem decodeRole_eq_none {r : BitVec 4} : decodeRole r = none ↔ 11 ≤ r.toNat := by
  revert r; decide

theorem decodeCapability_encodeCapability (c : Capability) :
    decodeCapability ((encodeCapability c).getLsbD 0) = c := by cases c <;> rfl

theorem encodeCapability_decodeCapability (b : Bool) :
    encodeCapability (decodeCapability b) = BitVec.ofBool b := by cases b <;> rfl

/-! ### A word from its fields -/

/-- Adjoining fields of a word make the field that spans them. -/
theorem extractLsb'_join {lo a b : Nat} {w : Word} {x : BitVec a} {y : BitVec b}
    (hx : w.extractLsb' (lo + b) a = x) (hy : w.extractLsb' lo b = y) :
    w.extractLsb' lo (a + b) = x ++ y := by
  subst hx hy
  ext i hi
  simp only [BitVec.getElem_extractLsb', BitVec.getElem_append]
  split_ifs with h
  · rfl
  · congr 1; omega

/-- A one-bit field is its bit. -/
theorem extractLsb'_bit (w : Word) (k : Nat) :
    w.extractLsb' k 1 = BitVec.ofBool (w.getLsbD k) := by
  ext i hi
  have : i = 0 := by omega
  subst this
  simp

/-- A word is the concatenation of its fields. -/
theorem asWord_eq {n : Nat} {w : Word} {x : BitVec n} {h : n = 32}
    (hx : w.extractLsb' 0 n = x) : asWord x h = w := by
  subst h hx
  ext i hi
  simp [asWord]

/-- The opcode field as a number. -/
theorem extractLsb'_opcode {w : Word} {n : Nat} (h : (opcode w).toNat = n) :
    w.extractLsb' 28 4 = BitVec.ofNat 4 n := by
  rw [← h, BitVec.ofNat_toNat, BitVec.setWidth_eq]
  rfl

end Sys2Proof
end

