-- ==== Sys2Proof/Laws/Exec.lean ====
section
/-! SUPPORT. What each meaning can answer, said once: if it answers a next state, then that state is
one of the listed ones. Also the shared operations of the meanings that choose a register's new value. -/

namespace Sys2Proof.Machine

/-! ### Choices the meanings share -/

/-- Every failing check of `BUILD` reports one of the four configuration codes (41 R113). -/
theorem State.configError_cases {s : State} {e : ErrCode} (h : s.configError = some e) :
    e = .configBusWidth ∨ e = .configMissingControl ∨ e = .configInvalidPin ∨
      e = .configDuplicatePin := by
  unfold State.configError at h
  split_ifs at h <;> simp_all

/-- A registered device is one below `NUM_DEVICES` whose slot is valid (45 R223). -/
theorem State.registeredDevice_eq_some {s : State} {dev : BitVec 4} {e : Device} :
    s.registeredDevice dev = some e ↔
      dev.toNat < s.par.numDevices ∧ s.devices[dev.toNat].valid = true ∧
        e = s.devices[dev.toNat] := by
  unfold State.registeredDevice
  split_ifs with h1 h2
  · simp; omega
  · simp only [Option.some.injEq]
    exact ⟨fun h => ⟨by omega, h2, h.symm⟩, fun h => h.2.2.symm⟩
  · simp [h2]

/-- No device is registered in the slot: it is not one of the block's, or not valid (45 R223). -/
theorem State.registeredDevice_eq_none {s : State} {dev : BitVec 4} :
    s.registeredDevice dev = none ↔
      s.par.numDevices ≤ dev.toNat ∨ s.devices[dev.toNat].valid = false := by
  unfold State.registeredDevice
  split_ifs with h1 h2
  · simp [h1]
  · simp [h2]; omega
  · simp [h2]

/-- The slot REGDEV takes is free, below `NUM_DEVICES`, and every slot below it is not both
(45 R221). -/
theorem State.freeSlot_eq_some {s : State} {d : Fin 16} (h : s.freeSlot = some d) :
    d.val < s.par.numDevices ∧ s.devices[d.val].valid = false := by
  have := List.find?_some h
  simpa using this

/-- The state a rotation leaves: the old one, or the new index with the rebuilt buffer (43 R171). -/
theorem State.rotateTo_cases (s : State) (n : Rot) :
    (n = s.rot ∧ s.rotateTo n = s) ∨
      (n ≠ s.rot ∧ s.rotateTo n = s.setRotation n (rebuild s.par s.bb s.rot n)) := by
  unfold State.rotateTo
  split_ifs with h
  · exact .inl ⟨h, rfl⟩
  · exact .inr ⟨h, rfl⟩

@[simp] theorem State.rotateTo_rot (s : State) (n : Rot) : (s.rotateTo n).rot = n := by
  rcases s.rotateTo_cases n with ⟨h, e⟩ | ⟨h, e⟩
  · rw [e, h]
  · rw [e, State.setRotation_rot]

@[simp] theorem State.rotateTo_par (s : State) (n : Rot) : (s.rotateTo n).par = s.par := by
  rcases s.rotateTo_cases n with ⟨_, e⟩ | ⟨_, e⟩ <;> simp [e]

@[simp] theorem State.rotateTo_stream (s : State) (n : Rot) : (s.rotateTo n).stream = s.stream := by
  rcases s.rotateTo_cases n with ⟨_, e⟩ | ⟨_, e⟩ <;> simp [e]

@[simp] theorem State.rotateTo_cp (s : State) (n : Rot) : (s.rotateTo n).cp = s.cp := by
  rcases s.rotateTo_cases n with ⟨_, e⟩ | ⟨_, e⟩ <;> simp [e]

@[simp] theorem State.rotateTo_held (s : State) (n : Rot) : (s.rotateTo n).held = s.held := by
  rcases s.rotateTo_cases n with ⟨_, e⟩ | ⟨_, e⟩ <;> simp [e]

@[simp] theorem State.rotateTo_waiting (s : State) (n : Rot) : (s.rotateTo n).waiting = s.waiting := by
  rcases s.rotateTo_cases n with ⟨_, e⟩ | ⟨_, e⟩ <;> simp [e]

@[simp] theorem State.rotateTo_stage (s : State) (n : Rot) : (s.rotateTo n).stage = s.stage := by
  rcases s.rotateTo_cases n with ⟨_, e⟩ | ⟨_, e⟩ <;> simp [e]

@[simp] theorem State.rotateTo_busReady (s : State) (n : Rot) : (s.rotateTo n).busReady = s.busReady := by
  rcases s.rotateTo_cases n with ⟨_, e⟩ | ⟨_, e⟩ <;> simp [e]

@[simp] theorem State.rotateTo_busFatal (s : State) (n : Rot) : (s.rotateTo n).busFatal = s.busFatal := by
  rcases s.rotateTo_cases n with ⟨_, e⟩ | ⟨_, e⟩ <;> simp [e]

@[simp] theorem State.rotateTo_ctl (s : State) (n : Rot) : (s.rotateTo n).ctl = s.ctl := by
  rcases s.rotateTo_cases n with ⟨_, e⟩ | ⟨_, e⟩ <;> simp [e]

@[simp] theorem State.rotateTo_ng (s : State) (n : Rot) : (s.rotateTo n).ng = s.ng := by
  rcases s.rotateTo_cases n with ⟨_, e⟩ | ⟨_, e⟩ <;> simp [e]

@[simp] theorem State.rotateTo_groups (s : State) (n : Rot) : (s.rotateTo n).groups = s.groups := by
  rcases s.rotateTo_cases n with ⟨_, e⟩ | ⟨_, e⟩ <;> simp [e]

@[simp] theorem State.rotateTo_last (s : State) (n : Rot) : (s.rotateTo n).last = s.last := by
  rcases s.rotateTo_cases n with ⟨_, e⟩ | ⟨_, e⟩ <;> simp [e]

@[simp] theorem State.rotateTo_tfa (s : State) (n : Rot) : (s.rotateTo n).tfa = s.tfa := by
  rcases s.rotateTo_cases n with ⟨_, e⟩ | ⟨_, e⟩ <;> simp [e]

@[simp] theorem State.rotateTo_vsa (s : State) (n : Rot) : (s.rotateTo n).vsa = s.vsa := by
  rcases s.rotateTo_cases n with ⟨_, e⟩ | ⟨_, e⟩ <;> simp [e]

@[simp] theorem State.rotateTo_bfa (s : State) (n : Rot) : (s.rotateTo n).bfa = s.bfa := by
  rcases s.rotateTo_cases n with ⟨_, e⟩ | ⟨_, e⟩ <;> simp [e]

@[simp] theorem State.rotateTo_ofs (s : State) (n : Rot) : (s.rotateTo n).ofs = s.ofs := by
  rcases s.rotateTo_cases n with ⟨_, e⟩ | ⟨_, e⟩ <;> simp [e]

@[simp] theorem State.rotateTo_devices (s : State) (n : Rot) : (s.rotateTo n).devices = s.devices := by
  rcases s.rotateTo_cases n with ⟨_, e⟩ | ⟨_, e⟩ <;> simp [e]

@[simp] theorem State.rotateTo_result (s : State) (n : Rot) : (s.rotateTo n).result = s.result := by
  rcases s.rotateTo_cases n with ⟨_, e⟩ | ⟨_, e⟩ <;> simp [e]

@[simp] theorem State.rotateTo_lastErr (s : State) (n : Rot) : (s.rotateTo n).lastErr = s.lastErr := by
  rcases s.rotateTo_cases n with ⟨_, e⟩ | ⟨_, e⟩ <;> simp [e]

@[simp] theorem State.rotateTo_anyErr (s : State) (n : Rot) : (s.rotateTo n).anyErr = s.anyErr := by
  rcases s.rotateTo_cases n with ⟨_, e⟩ | ⟨_, e⟩ <;> simp [e]

@[simp] theorem State.rotateTo_pf (s : State) (n : Rot) : (s.rotateTo n).pf = s.pf := by
  rcases s.rotateTo_cases n with ⟨_, e⟩ | ⟨_, e⟩ <;> simp [e]

@[simp] theorem State.rotateTo_trace (s : State) (n : Rot) : (s.rotateTo n).trace = s.trace := by
  rcases s.rotateTo_cases n with ⟨_, e⟩ | ⟨_, e⟩ <;> simp [e]

/-! ### One lemma per meaning -/

theorem execPinsel_cases {role : Role} {pol : Bool} {pin : Byte} {s t : State}
    (h : execPinsel role pol pin s = .next t) :
    t = (s.stagePin role ⟨true, pin, pol⟩).complete := by
  simpa [execPinsel, eq_comm] using h

theorem execBuild_cases {s t : State} (h : execBuild s = .next t) :
    (s.busFatal = true ∧ t = s.raise .fatal) ∨
    (s.busFatal = false ∧ ∃ e, s.configError = some e ∧ t = s.killBus.raise e) ∨
    (s.busFatal = false ∧ s.configError = none ∧
      t = (s.installBus s.stagedRegisterMap (buildLut s.par s.stagedDataPins)).complete) := by
  unfold execBuild at h
  repeat' split at h
  all_goals injection h with h; subst h; simp_all

theorem execTx_cases {cmd : Option Byte} {data : Option (List Byte)} {s t : State}
    (h : execTx cmd data s = .next t) :
    (s.busFatal = true ∧ t = s.raise .fatal) ∨
    (s.busFatal = false ∧ s.busReady = false ∧ t = s.raise .notConfigured) ∨
    (s.busFatal = false ∧ s.busReady = true ∧
      t = (s.emit (s.transaction cmd data)
        (lastAfter s.last (cmd.toList ++ data.getD []))).complete) := by
  unfold execTx at h
  repeat' split at h
  all_goals injection h with h; subst h; simp_all

theorem execSetrot_cases {imm : BitVec 28} {s t : State} (h : execSetrot imm s = .next t) :
    (degreesOf imm % 90 ≠ 0 ∧ t = s.raise .invalidRotation) ∨
    (degreesOf imm % 90 = 0 ∧ t = (s.rotateTo (Rot.ofDegrees (degreesOf imm))).complete) := by
  unfold execSetrot at h
  split at h
  all_goals injection h with h; subst h; simp_all

theorem execGetrot_cases {s t : State} (h : execGetrot s = .next t) :
    t = (s.setResult (BitVec.ofNat 32 s.rot.degrees)).complete := by
  simpa [execGetrot, eq_comm] using h

theorem execMappt_cases {lx ly : Half} {s t : State} (h : execMappt lx ly s = .next t) :
    ((s.lw ≤ lx.toNat ∨ s.lh ≤ ly.toNat) ∧ t = s.raise .outOfBounds) ∨
    (lx.toNat < s.lw ∧ ly.toNat < s.lh ∧
      t = (s.setResult (pointWord
        (BitVec.ofNat 16 (toPhysical s.par s.rot (lx.toNat, ly.toNat)).1)
        (BitVec.ofNat 16 (toPhysical s.par s.rot (lx.toNat, ly.toNat)).2))).complete) := by
  unfold execMappt at h
  split at h
  all_goals injection h with h; subst h; simp_all

theorem execSetwin_cases {tfa vsa bfa : Half} {s t : State}
    (h : execSetwin tfa vsa bfa s = .next t) :
    (tfa.toNat + vsa.toNat + bfa.toNat ≠ s.par.h0 ∧ t = s.raise .configScrollExtents) ∨
    (tfa.toNat + vsa.toNat + bfa.toNat = s.par.h0 ∧
      t = (s.setWindow tfa vsa bfa (keptOffset s.ofs vsa)).complete) := by
  unfold execSetwin at h
  split at h
  all_goals injection h with h; subst h; simp_all

theorem execSetofs_cases {ofs : Option Half} {s t : State} (h : execSetofs ofs s = .next t) :
    (ofs = none ∧ t = (s.setOffset none).complete) ∨
    (∃ o, ofs = some o ∧ s.vsa.toNat ≤ o.toNat ∧ t = s.raise .invalidOffset) ∨
    (∃ o, ofs = some o ∧ o.toNat < s.vsa.toNat ∧ t = (s.setOffset (some o)).complete) := by
  unfold execSetofs at h
  repeat' split at h
  all_goals injection h with h; subst h; simp_all

theorem execGetofs_cases {s t : State} (h : execGetofs s = .next t) :
    t = (s.setResult (offsetWord s.ofs)).complete := by
  simpa [execGetofs, eq_comm] using h

theorem execRegdev_cases {cap : Capability} {t0 t1 t2 t3 : BitVec 3} {s t : State}
    (h : execRegdev cap t0 t1 t2 t3 s = .next t) :
    (s.freeSlot = none ∧ t = s.raise .deviceTableFull) ∨
    (∃ d, s.freeSlot = some d ∧
      t = ((s.setDevice d.val ⟨true, cap, #v[t0, t1, t2, t3]⟩).setResult
        (BitVec.ofNat 32 d.val)).complete) := by
  unfold execRegdev at h
  split at h
  all_goals injection h with h; subst h; simp_all

theorem execSetxf_cases {dev : BitVec 4} {idx : BitVec 2} {xf : BitVec 3} {s t : State}
    (h : execSetxf dev idx xf s = .next t) :
    (s.registeredDevice dev = none ∧ t = s.raise .invalidDevice) ∨
    (∃ e, s.registeredDevice dev = some e ∧
      t = (s.setDevice dev.toNat { e with xf := e.xf.set idx.toNat xf }).complete) := by
  unfold execSetxf at h
  split at h
  all_goals injection h with h; subst h; simp_all

theorem execXform_cases {dev : BitVec 4} {x y : Half} {s t : State}
    (h : execXform dev x y s = .next t) :
    (s.registeredDevice dev = none ∧ t = s.raise .invalidDevice) ∨
    (∃ e, s.registeredDevice dev = some e ∧
      t = (s.setResult (pointWord
        (trunc16 (applyTransform s.lw s.lh e.xf[s.rot.index.val] (sampleOf x) (sampleOf y)).1)
        (trunc16
          (applyTransform s.lw s.lh e.xf[s.rot.index.val] (sampleOf x) (sampleOf y)).2))).complete) := by
  unfold execXform at h
  split at h
  all_goals injection h with h; subst h; simp_all

theorem execBlit_cases {bx bY bw bh : Half} {bytes : List Byte} {s t : State}
    (h : execBlit bx bY bw bh bytes s = .next t) :
    ((s.lw < bx.toNat + bw.toNat ∨ s.lh < bY.toNat + bh.toNat) ∧ t = s.raise .outOfBounds) ∨
    (bx.toNat + bw.toNat ≤ s.lw ∧ bY.toNat + bh.toNat ≤ s.lh ∧
      bytes.length ≠ bw.toNat * bh.toNat * s.par.bytesPerPixel ∧
      t = s.raise .bufferSizeMismatch) ∨
    (bx.toNat + bw.toNat ≤ s.lw ∧ bY.toNat + bh.toNat ≤ s.lh ∧
      bytes.length = bw.toNat * bh.toNat * s.par.bytesPerPixel ∧
      t = (s.setBacking (blitPixels s.par.bytesPerPixel s.lw bx.toNat bY.toNat bw.toNat bh.toNat
        bytes s.bb)).complete) := by
  unfold execBlit at h
  repeat' split at h
  all_goals injection h with h; subst h; simp_all

theorem execCompose_cases {s t : State} (h : execCompose s = .next t) :
    t = (s.setFrame s.composed).complete := by
  simpa [execCompose, eq_comm] using h

end Sys2Proof.Machine
end

