-- ==== Sys2Proof/Laws/Fetch.lean ====
section
/-! SUPPORT. What fetching finds and what holding and consuming leave ahead of the block. -/

namespace Sys2Proof

/-- Every command has at least one word (30 R84). -/
theorem commandLength_pos {ws : List Word} {n : Nat} (h : commandLength ws = some n) : 0 < n := by
  unfold commandLength at h
  split at h
  · simp at h
  · split at h <;> try (simp at h; omega)
    split at h <;> simp at h
    omega

/-- Later words do not change the length of a command (30 R84). -/
theorem commandLength_append {ws : List Word} {n : Nat} (vs : List Word)
    (h : commandLength ws = some n) : commandLength (ws ++ vs) = some n := by
  match ws, h with
  | w0 :: rest, h =>
    simp only [List.cons_append, commandLength] at h ⊢
    split at h <;> try exact h
    match rest, h with
    | _ :: _ :: _ :: _, h => exact h

end Sys2Proof

namespace Sys2Proof.Machine

/-! ### Framing (30 R84, R85) -/

theorem frameCommand_eq_idle {ws : List Word} : frameCommand ws = .idle ↔ ws = [] := by
  unfold frameCommand
  split_ifs with h
  · simp [h]
  · simp only [h, iff_false]
    split
    · simp
    · split_ifs <;> simp

/-- Everything a framed command can be: the first words of the list, as many as its length says. -/
theorem frameCommand_eq_command {ws vs : List Word} :
    frameCommand ws = .command vs ↔
      ∃ n, commandLength ws = some n ∧ n ≤ ws.length ∧ vs = ws.take n := by
  unfold frameCommand
  split_ifs with h
  · subst h; simp [commandLength]
  · split
    · rename_i h1; simp [h1]
    · rename_i n h1
      split_ifs with h2
      · simp [h1, h2, eq_comm]
      · simp [h1, h2]

/-- The block holds exactly when it has begun a command it cannot frame yet. -/
theorem frameCommand_eq_incomplete {ws : List Word} :
    frameCommand ws = .incomplete ↔
      ws ≠ [] ∧ ∀ n, commandLength ws = some n → ws.length < n := by
  unfold frameCommand
  split_ifs with h
  · simp [h]
  · split
    · rename_i h1; simp [h, h1]
    · rename_i n h1
      split_ifs with h2 <;> simp [h, h1] <;> omega

/-- A framed command is not empty and not longer than the words it was framed from. -/
theorem frameCommand_length {ws vs : List Word} (h : frameCommand ws = .command vs) :
    0 < vs.length ∧ vs.length ≤ ws.length := by
  obtain ⟨n, h1, h2, rfl⟩ := frameCommand_eq_command.1 h
  have := commandLength_pos h1
  simp; omega

/-! ### Holding and consuming (20 R50 to R52) -/

@[simp] theorem State.wordsAhead_length (s : State) :
    s.wordsAhead.length = s.held.length + (s.stream.length - s.cp) := by
  simp [State.wordsAhead]

/-- Holding fetches words, it loses none. -/
@[simp] theorem State.hold_wordsAhead (s : State) : s.hold.wordsAhead = s.wordsAhead := by
  simp only [State.hold, State.wordsAhead]
  have h : s.stream.drop (s.cp + (s.stream.drop s.cp).length) = [] :=
    List.drop_eq_nil_of_le (by rw [List.length_drop]; omega)
  rw [h, List.append_nil]

/-- Consuming a command leaves no more words ahead than there were without it, or without the words
held. -/
theorem State.consume_wordsAhead (s : State) (n : Nat) :
    (s.consume n).wordsAhead.length = s.stream.length - (s.cp + (n - s.held.length)) := by
  simp [State.consume]

/-- With no more words held than the command has, what is left ahead is what followed it. -/
theorem State.consume_wordsAhead_eq {s : State} {n : Nat} (h : s.held.length ≤ n) :
    (s.consume n).wordsAhead = s.wordsAhead.drop n := by
  simp only [State.consume, State.wordsAhead, List.nil_append, List.drop_append, List.drop_drop,
    List.drop_eq_nil_of_le h]

end Sys2Proof.Machine
end

