-- ==== Sys2Proof/Laws/Lines.lean ====
section
/-! SUPPORT. What `datawrite` does to the output latches of the reference port model, said once, and
which latch bits a control write can change. -/

namespace Sys2Proof.Machine

/-- A word below `2 ^ k` has no bit at or above `k`. -/
theorem getLsbD_of_lt {w : Word} {k i : Nat} (h : w.toNat < 2 ^ k) (hi : k ≤ i) :
    w.getLsbD i = false :=
  Nat.testBit_lt_two_pow (lt_of_lt_of_le h (Nat.pow_le_pow_right (by decide) hi))

theorem getLsbD_low16 {i : Nat} (h : i < 32) : (0xFFFF#32).getLsbD i = decide (i < 16) := by
  have key : ∀ i : Fin 32, (0xFFFF#32).getLsbD i.val = decide (i.val < 16) := by decide
  exact key ⟨i, h⟩

/-- The masks of a sound group at a byte value (10 R25). -/
theorem LutGroup.Sound.entry {p : Params} {g : LutGroup} (h : g.Sound p) (v : Byte) :
    (g.entry v).setMask ||| (g.entry v).clrMask = g.full ∧
      (g.entry v).setMask &&& (g.entry v).clrMask = 0#32 :=
  h.masks _ (getD_mem _ (by rw [h.lut_length]; exact v.isLt))

/-- Setting and clearing the two halves of `FULL` replaces the bits of `FULL` by `SETM`. -/
theorem set_clear_masks {o f m c : Word} (h1 : m ||| c = f) (h2 : m &&& c = 0#32) :
    (o ||| m) &&& ~~~c = o &&& ~~~f ||| m := by
  subst h1
  apply BitVec.eq_of_getLsbD_eq
  intro i hi
  have h := congrArg (fun x => x.getLsbD i) h2
  simp only [BitVec.getLsbD_and, BitVec.getLsbD_or, BitVec.getLsbD_not, BitVec.getLsbD_zero, hi,
    decide_true, Bool.true_and] at h ⊢
  revert h
  cases o.getLsbD i <;> cases m.getLsbD i <;> cases c.getLsbD i <;> decide

/-- The same through one combined set/reset word. -/
theorem set_clear_combined {o f m c : Word} (h1 : m ||| c = f) (h2 : m &&& c = 0#32)
    (h3 : f.toNat < 2 ^ 16) :
    o &&& ~~~((m ||| c <<< 16) >>> 16) ||| (m ||| c <<< 16) &&& 0xFFFF#32 = o &&& ~~~f ||| m := by
  apply BitVec.eq_of_getLsbD_eq
  intro i hi
  have hor : ∀ k, m.getLsbD k = true ∨ c.getLsbD k = true → f.getLsbD k = true := by
    intro k hk
    rw [← h1, BitVec.getLsbD_or]
    simpa using hk
  have hm : ∀ k, 16 ≤ k → m.getLsbD k = false := fun k hk => by
    by_contra h
    have := getLsbD_of_lt h3 hk
    rw [hor k (.inl (by simpa using h))] at this
    exact Bool.noConfusion this
  have h := congrArg (fun x => x.getLsbD i) h2
  have h' := congrArg (fun x => x.getLsbD i) h1
  simp only [BitVec.getLsbD_and, BitVec.getLsbD_or, BitVec.getLsbD_zero] at h h'
  simp only [BitVec.getLsbD_and, BitVec.getLsbD_or, BitVec.getLsbD_not, BitVec.getLsbD_ushiftRight,
    BitVec.getLsbD_shiftLeft, getLsbD_low16 hi, hi, hm (16 + i) (by omega), ← h',
    show 16 + i - 16 = i by omega, show ¬16 + i < 16 by omega, decide_true, decide_false]
  by_cases hlt : i < 16
  · simp only [show 16 + i < 32 by omega, hlt, decide_true]
    revert h
    cases o.getLsbD i <;> cases m.getLsbD i <;> cases c.getLsbD i <;> simp
  · have hf := getLsbD_of_lt h3 (Nat.le_of_not_lt hlt)
    rw [← h', Bool.or_eq_false_iff] at hf
    simp [hlt, hf.1, hf.2, show ¬16 + i < 32 by omega]

/-- Everything `datawrite(i, v)` does to the latches: the bits of `FULL` in the group's latch become
`SETM`, every other bit and every other latch is as before (42 R146, 20 R57). -/
theorem portRun_dataWrite {p : Params} (hp : p.Legal) {g : LutGroup} (hg : g.Sound p) (v : Byte)
    (out : Latches) (k : Nat) :
    portRun p out (dataWrite p v g) k =
      if k = g.grp then out k &&& ~~~g.full ||| (g.entry v).setMask else out k := by
  obtain ⟨h1, h2⟩ := hg.entry v
  unfold dataWrite
  cases hf : p.family <;> simp only [portRun_cons, portRun_nil]
  · rw [portWrite_bsrr hp hf _ hg.grp_lt]
    split_ifs
    · have h3 := hg.full_lt
      rw [hf] at h3
      exact set_clear_combined h1 h2 h3
    · rfl
  · rw [portWrite_clr hp hf _ hg.grp_lt, portWrite_set hp hf _ hg.grp_lt]
    split_ifs
    · exact set_clear_masks h1 h2
    · rfl

/-- Everything the data writes of a byte do, over every spanned group (42 R145). -/
theorem portRun_dataWrites {p : Params} (hp : p.Legal) (v : Byte) {gs : List LutGroup}
    (hs : ∀ g ∈ gs, g.Sound p) (hn : gs.Pairwise fun g h => g.grp < h.grp) (out : Latches) :
    (∀ g ∈ gs, portRun p out (gs.flatMap (dataWrite p v)) g.grp =
      out g.grp &&& ~~~g.full ||| (g.entry v).setMask) ∧
    ∀ k, (∀ g ∈ gs, k ≠ g.grp) → portRun p out (gs.flatMap (dataWrite p v)) k = out k := by
  induction gs generalizing out with
  | nil => simp
  | cons g gs ih =>
    rw [List.pairwise_cons] at hn
    obtain ⟨i1, i2⟩ := ih (fun h hh => hs h (List.mem_cons_of_mem _ hh)) hn.2
      (portRun p out (dataWrite p v g))
    have hg := portRun_dataWrite hp (hs g (by simp)) v out
    simp only [List.flatMap_cons, portRun_append]
    constructor
    · intro h hh
      rcases List.mem_cons.1 hh with rfl | hh
      · rw [i2 _ fun k hk => by have := hn.1 k hk; omega, hg, if_pos rfl]
      · rw [i1 h hh, hg, if_neg (by have := hn.1 h hh; omega)]
    · intro k hk
      rw [i2 _ fun h hh => hk h (List.mem_cons_of_mem _ hh), hg, if_neg (hk g (by simp))]

end Sys2Proof.Machine
end

