-- ==== Sys2Proof/Laws/Memory.lean ====
section
/-! SUPPORT. The laws of the pixel buffers: a byte read after a write, the canonical form kept by
every operation, and what the byte-copying and pixel loops leave at each offset. -/

namespace Sys2Proof.Machine

/-! ### One byte -/

theorem cellRead_cellInsert (cs : List Host.Cell) (a b : Nat) (v : Byte) :
    cellRead (cellInsert cs a v) b = if b = a then some v else cellRead cs b := by
  induction cs with
  | nil => by_cases h : b = a <;> simp [cellInsert, cellRead, h, Ne.symm]
  | cons c cs ih =>
    unfold cellInsert
    split_ifs with h1 h2 h3 h3 h3 <;> simp_all [cellRead] <;> grind

theorem cellRead_filter_ne (cs : List Host.Cell) (a b : Nat) :
    cellRead (cs.filter fun c => c.1 ≠ a) b = if b = a then none else cellRead cs b := by
  induction cs with
  | nil => simp [cellRead]
  | cons c cs ih => by_cases h : c.1 = a <;> simp_all [cellRead] <;> grind

/-- A byte read after a write: the written one at its own offset, every other byte as before. -/
theorem Memory.read_write (m : Memory) (a b : Nat) (v : Option Byte) :
    (m.write a v).read b = if b = a then v else m.read b := by
  cases v with
  | some v => exact cellRead_cellInsert m.cells a b v
  | none => exact cellRead_filter_ne m.cells a b

@[simp] theorem Memory.read_write_same (m : Memory) (a : Nat) (v : Option Byte) :
    (m.write a v).read a = v := by simp [Memory.read_write]

theorem Memory.read_write_ne (m : Memory) {a b : Nat} (v : Option Byte) (h : b ≠ a) :
    (m.write a v).read b = m.read b := by simp [Memory.read_write, h]

@[simp] theorem Memory.read_empty (a : Nat) : Memory.read ⟨[]⟩ a = none := rfl

/-! ### The canonical form -/

theorem mem_cellInsert {cs : List Host.Cell} {a : Nat} {v : Byte} {d : Host.Cell}
    (h : d ∈ cellInsert cs a v) : d = (a, v) ∨ d ∈ cs := by
  induction cs with
  | nil => simpa [cellInsert] using h
  | cons c cs ih =>
    unfold cellInsert at h
    split_ifs at h <;> simp_all
    · rcases h with h | h
      · exact .inl h
      · exact .inr (.inr h)
    · rcases h with h | h
      · exact .inr (.inl h)
      · rcases ih h with h | h
        · exact .inl h
        · exact .inr (.inr h)

theorem cellInsert_pairwise (cs : List Host.Cell) (a : Nat) (v : Byte)
    (h : cs.Pairwise fun c d => c.1 < d.1) :
    (cellInsert cs a v).Pairwise fun c d => c.1 < d.1 := by
  induction cs with
  | nil => simp [cellInsert]
  | cons c cs ih =>
    rw [List.pairwise_cons] at h
    unfold cellInsert
    split_ifs with h1 h2
    · refine List.pairwise_cons.2 ⟨fun d hd => ?_, List.pairwise_cons.2 h⟩
      rcases List.mem_cons.1 hd with rfl | hd
      · exact h1
      · exact lt_trans h1 (h.1 d hd)
    · exact List.pairwise_cons.2 ⟨fun d hd => h2 ▸ h.1 d hd, h.2⟩
    · refine List.pairwise_cons.2 ⟨fun d hd => ?_, ih h.2⟩
      rcases mem_cellInsert hd with rfl | hd
      · simp only; omega
      · exact h.1 d hd

/-- Every write keeps the canonical form. -/
theorem Memory.write_wf {m : Memory} (a : Nat) (v : Option Byte) (h : m.wf) : (m.write a v).wf := by
  cases v with
  | some v => exact cellInsert_pairwise _ _ _ h
  | none => exact List.Pairwise.filter _ h

/-- Both buffers are in canonical form after reset. -/
theorem State.resetOf_wf (p : Params) : (State.resetOf p).bb.wf ∧ (State.resetOf p).pf.wf :=
  ⟨List.Pairwise.nil, List.Pairwise.nil⟩

theorem State.reset_wf : State.reset.bb.wf ∧ State.reset.pf.wf := State.resetOf_wf referenceParams

/-- Every write below the size keeps every written byte below it. -/
theorem Memory.write_cells_lt {m : Memory} {a size : Nat} (v : Option Byte) (ha : a < size)
    (h : ∀ c ∈ m.cells, c.1 < size) : ∀ c ∈ (m.write a v).cells, c.1 < size := by
  intro c hc
  cases v with
  | some v =>
    rcases mem_cellInsert hc with rfl | hc
    · exact ha
    · exact h c hc
  | none => exact h c (List.mem_of_mem_filter hc)

theorem cellRead_eq_some_of_mem {cs : List Host.Cell} (h : cs.Pairwise fun c d => c.1 < d.1)
    {a : Nat} {v : Byte} : cellRead cs a = some v ↔ (a, v) ∈ cs := by
  induction cs with
  | nil => simp [cellRead]
  | cons c cs ih =>
    obtain ⟨k, w⟩ := c
    rw [List.pairwise_cons] at h
    have h1 := h.1 (a, v)
    have := ih h.2
    by_cases hk : k = a
    · subst hk
      simp only [cellRead, ↓reduceIte, Option.some.injEq, List.mem_cons, Prod.mk.injEq, true_and]
      constructor
      · exact fun h => .inl h.symm
      · rintro (rfl | hm)
        · rfl
        · exact absurd (h1 hm) (lt_irrefl _)
    · simp [cellRead, hk, this, Ne.symm hk]

/-- Two memories in canonical form that read the same everywhere are equal data. -/
theorem Memory.ext_read {m n : Memory} (hm : m.wf) (hn : n.wf) (h : ∀ a, m.read a = n.read a) :
    m = n := by
  obtain ⟨cs⟩ := m
  obtain ⟨ds⟩ := n
  have hmem : ∀ c : Host.Cell, c ∈ cs ↔ c ∈ ds := fun c => by
    rw [← Prod.mk.eta (p := c), ← cellRead_eq_some_of_mem hm, ← cellRead_eq_some_of_mem hn]
    exact Eq.congr_left (h c.1)
  congr
  exact List.Perm.eq_of_pairwise (le := fun c d : Host.Cell => c.1 < d.1)
    (fun a b _ _ hab hba => absurd hab (Nat.lt_asymm hba)) hm hn
    ((List.perm_ext_iff_of_nodup (hm.imp fun h e => by simp [e] at h)
      (hn.imp fun h e => by simp [e] at h)).2 hmem)

/-- A byte at or above the size is unwritten. -/
theorem Memory.read_eq_none {m : Memory} {size a : Nat} (h : ∀ c ∈ m.cells, c.1 < size)
    (ha : size ≤ a) : m.read a = none := by
  obtain ⟨cs⟩ := m
  simp only [Memory.read]
  induction cs with
  | nil => rfl
  | cons c cs ih =>
    have hc := h c (by simp)
    simp only [cellRead]
    rw [if_neg (by omega)]
    exact ih fun d hd => h d (List.mem_cons_of_mem c hd)

/-! ### Loops of writes -/

/-- A loop whose every turn keeps a property of the buffer keeps it. -/
theorem foldl_keeps {α : Type} (P : Memory → Prop) (f : Memory → α → Memory) (qs : List α)
    (m : Memory) (h0 : P m) (h : ∀ q ∈ qs, ∀ m, P m → P (f m q)) : P (qs.foldl f m) := by
  induction qs generalizing m with
  | nil => exact h0
  | cons q qs ih =>
    exact ih _ (h q (by simp) m h0) fun q' hq' => h q' (List.mem_cons_of_mem q hq')

/-- A byte no turn of a loop writes reads as before. -/
theorem foldl_read_untouched {α : Type} (f : Memory → α → Memory) (qs : List α) (m : Memory)
    (a : Nat) (h : ∀ q ∈ qs, ∀ m, (f m q).read a = m.read a) :
    (qs.foldl f m).read a = m.read a := by
  induction qs generalizing m with
  | nil => rfl
  | cons q qs ih =>
    rw [List.foldl_cons, ih _ fun q' hq' => h q' (List.mem_cons_of_mem q hq'), h q (by simp)]

/-- A byte that one turn of a loop writes, and no turn of another kind, reads as that turn left
it. -/
theorem foldl_read_written {α : Type} (f : Memory → α → Memory) (qs : List α) (m : Memory) (a : Nat)
    (q : α) (v : Option Byte) (hq : q ∈ qs) (hv : ∀ m, (f m q).read a = v)
    (h : ∀ q' ∈ qs, q' ≠ q → ∀ m, (f m q').read a = m.read a) :
    (qs.foldl f m).read a = v := by
  induction qs generalizing m with
  | nil => simp at hq
  | cons q' qs ih =>
    rw [List.foldl_cons]
    by_cases hmem : q ∈ qs
    · exact ih _ hmem fun r hr => h r (List.mem_cons_of_mem q' hr)
    · have hqq : q = q' := by simpa [hmem] using hq
      subst hqq
      rw [foldl_read_untouched f qs _ a fun r hr =>
        h r (List.mem_cons_of_mem q hr) fun e => hmem (e ▸ hr)]
      exact hv m

/-! ### Bytes copied and stored -/

/-- What a byte loop leaves: byte `d + j` is `val j`, every other byte as before. -/
theorem foldl_write_read (n : Nat) (val : Nat → Option Byte) (m : Memory) (d a : Nat) :
    ((List.range n).foldl (fun m j => m.write (d + j) (val j)) m).read a =
      if d ≤ a ∧ a < d + n then val (a - d) else m.read a := by
  induction n with
  | zero => simp
  | succ n ih =>
    rw [List.range_succ, List.foldl_append, List.foldl_cons, List.foldl_nil, Memory.read_write, ih]
    by_cases h : a = d + n
    · subst h; simp
    · rw [if_neg h]
      by_cases h2 : d ≤ a ∧ a < d + n
      · rw [if_pos h2, if_pos ⟨h2.1, by omega⟩]
      · rw [if_neg h2, if_neg (by omega)]

/-- Everything `copyBytes` does: the `n` bytes from offset `d` are the source's, value and mark;
every other byte is as before. -/
theorem copyBytes_read (n : Nat) (src : Memory) (so : Nat) (dst : Memory) (d a : Nat) :
    (copyBytes n src so dst d).read a =
      if d ≤ a ∧ a < d + n then src.read (so + (a - d)) else dst.read a :=
  foldl_write_read n (fun j => src.read (so + j)) dst d a

/-- Everything `storeBytes` does: the `n` bytes from offset `d` are the payload's from position
`k`, written; every other byte is as before. -/
theorem storeBytes_read (n : Nat) (p : List Byte) (k : Nat) (dst : Memory) (d a : Nat) :
    (storeBytes n p k dst d).read a =
      if d ≤ a ∧ a < d + n then some (p.getD (k + (a - d)) 0) else dst.read a :=
  foldl_write_read n (fun j => some (p.getD (k + j) 0)) dst d a

theorem copyBytes_wf (n : Nat) (src : Memory) (so : Nat) {dst : Memory} (d : Nat) (h : dst.wf) :
    (copyBytes n src so dst d).wf :=
  foldl_keeps Memory.wf _ _ _ h fun _ _ _ hm => Memory.write_wf _ _ hm

theorem storeBytes_wf (n : Nat) (p : List Byte) (k : Nat) {dst : Memory} (d : Nat) (h : dst.wf) :
    (storeBytes n p k dst d).wf :=
  foldl_keeps Memory.wf _ _ _ h fun _ _ _ hm => Memory.write_wf _ _ hm

theorem copyBytes_cells_lt {n : Nat} {src : Memory} {so : Nat} {dst : Memory} {d size : Nat}
    (hd : d + n ≤ size) (h : ∀ c ∈ dst.cells, c.1 < size) :
    ∀ c ∈ (copyBytes n src so dst d).cells, c.1 < size :=
  foldl_keeps (fun m => ∀ c ∈ m.cells, c.1 < size) _ _ _ h fun j hj _ hm =>
    Memory.write_cells_lt _ (by have := List.mem_range.1 hj; omega) hm

theorem storeBytes_cells_lt {n : Nat} {p : List Byte} {k : Nat} {dst : Memory} {d size : Nat}
    (hd : d + n ≤ size) (h : ∀ c ∈ dst.cells, c.1 < size) :
    ∀ c ∈ (storeBytes n p k dst d).cells, c.1 < size :=
  foldl_keeps (fun m => ∀ c ∈ m.cells, c.1 < size) _ _ _ h fun j hj _ hm =>
    Memory.write_cells_lt _ (by have := List.mem_range.1 hj; omega) hm

/-! ### Pixels -/

/-- The points of a grid. -/
@[simp] theorem mem_gridPoints {w h : Nat} {q : Nat × Nat} :
    q ∈ gridPoints w h ↔ q.1 < w ∧ q.2 < h := by
  obtain ⟨x, y⟩ := q
  simp [gridPoints]
  constructor
  · rintro ⟨hy, hx⟩; exact ⟨hx, hy⟩
  · rintro ⟨hx, hy⟩; exact ⟨hy, hx⟩

/-- Different pixels of a row-major buffer share no byte. -/
theorem pixelOffset_inj {w b x y x' y' j j' : Nat} (hx : x < w) (hx' : x' < w) (hj : j < b)
    (hj' : j' < b) (h : pixelOffset w b x y + j = pixelOffset w b x' y' + j') :
    x = x' ∧ y = y' ∧ j = j' := by
  unfold pixelOffset at h
  have hb : 0 < b := by omega
  have hp : y * w + x = y' * w + x' := by
    have h1 := congrArg (· / b) h
    simpa [Nat.mul_comm _ b, Nat.mul_add_div hb, Nat.div_eq_of_lt hj, Nat.div_eq_of_lt hj'] using h1
  have hjj : j = j' := by rw [hp] at h; omega
  have hw : 0 < w := by omega
  have hy : y = y' := by
    have h1 := congrArg (· / w) hp
    simpa [Nat.mul_comm _ w, Nat.mul_add_div hw, Nat.div_eq_of_lt hx, Nat.div_eq_of_lt hx'] using h1
  exact ⟨by rw [hy] at hp; omega, hy, hjj⟩

/-- A pixel inside a `w` by `h` buffer lies below the buffer's size. -/
theorem pixelOffset_add_le {w h b x y : Nat} (hx : x < w) (hy : y < h) :
    pixelOffset w b x y + b ≤ w * h * b := by
  unfold pixelOffset
  have h1 : y * w + x + 1 ≤ w * h := by nlinarith
  calc (y * w + x) * b + b = (y * w + x + 1) * b := by ring
    _ ≤ w * h * b := Nat.mul_le_mul_right b h1

/-- The pixels of a `w`-wide buffer cover every offset. -/
theorem exists_pixelOffset {w b : Nat} (hw : 0 < w) (hb : 0 < b) (a : Nat) :
    ∃ x y j, x < w ∧ j < b ∧ a = pixelOffset w b x y + j :=
  ⟨a / b % w, a / b / w, a % b, Nat.mod_lt _ hw, Nat.mod_lt _ hb, by
    unfold pixelOffset
    rw [Nat.div_add_mod', Nat.div_add_mod']⟩

end Sys2Proof.Machine
end

