-- ==== Sys2Proof/Laws/PerInstr.lean ====
section
/-! SUPPORT. Statements about every command as syntax, one lemma per constructor. -/

namespace Sys2Proof.Laws

/-- The opcode column of the opcode table (30 R83). -/
def OpcodeOf.column : Instr → Nat
  | .pinsel _ _ _ => 0x1
  | .build => 0x2
  | .tx _ _ => 0x3
  | .setrot _ => 0x4
  | .getrot => 0x5
  | .setwin _ _ _ => 0x6
  | .setofs _ => 0x7
  | .getofs => 0x8
  | .regdev _ _ _ _ _ => 0x9
  | .setxf _ _ _ => 0xA
  | .xform _ _ _ => 0xB
  | .mappt _ _ => 0xC
  | .blit _ _ _ _ _ => 0xD
  | .compose => 0xE

/-- The first word of the command's encoding has the opcode of its row (30 R80, R83). -/
def OpcodeOf.Statement (i : Instr) : Prop :=
  ∃ (w0 : Word) (ops : List Word), encode i = w0 :: ops ∧ (opcode w0).toNat = OpcodeOf.column i

theorem OpcodeOf.pinsel (role : Role) (pol : Bool) (pin : Byte) :
    OpcodeOf.Statement (.pinsel role pol pin) :=
  ⟨_, _, rfl, by simp (disch := omega) only [opcode, extractLsb'_asWord, extractLsb'_append_high,
    -Nat.reduceAdd, -Nat.reduceSub]; rfl⟩

theorem OpcodeOf.build : OpcodeOf.Statement .build := ⟨_, _, rfl, by decide⟩

theorem OpcodeOf.tx (cmd : Option Byte) (data : Option (List Byte)) :
    OpcodeOf.Statement (.tx cmd data) :=
  ⟨_, _, rfl, by simp (disch := omega) only [opcode, extractLsb'_asWord, extractLsb'_append_high,
    -Nat.reduceAdd, -Nat.reduceSub]; rfl⟩

theorem OpcodeOf.setrot (imm : BitVec 28) : OpcodeOf.Statement (.setrot imm) :=
  ⟨_, _, rfl, by simp (disch := omega) only [opcode, extractLsb'_asWord, extractLsb'_append_high,
    -Nat.reduceAdd, -Nat.reduceSub]; rfl⟩

theorem OpcodeOf.getrot : OpcodeOf.Statement .getrot := ⟨_, _, rfl, by decide⟩

theorem OpcodeOf.setwin (tfa vsa bfa : Half) : OpcodeOf.Statement (.setwin tfa vsa bfa) :=
  ⟨_, _, rfl, by simp (disch := omega) only [opcode, extractLsb'_asWord, extractLsb'_append_high,
    -Nat.reduceAdd, -Nat.reduceSub]; rfl⟩

theorem OpcodeOf.setofs (ofs : Option Half) : OpcodeOf.Statement (.setofs ofs) :=
  ⟨_, _, rfl, by simp (disch := omega) only [opcode, extractLsb'_asWord, extractLsb'_append_high,
    -Nat.reduceAdd, -Nat.reduceSub]; rfl⟩

theorem OpcodeOf.getofs : OpcodeOf.Statement .getofs := ⟨_, _, rfl, by decide⟩

theorem OpcodeOf.regdev (cap : Capability) (t0 t1 t2 t3 : BitVec 3) :
    OpcodeOf.Statement (.regdev cap t0 t1 t2 t3) :=
  ⟨_, _, rfl, by simp (disch := omega) only [opcode, extractLsb'_asWord, extractLsb'_append_high,
    -Nat.reduceAdd, -Nat.reduceSub]; rfl⟩

theorem OpcodeOf.setxf (dev : BitVec 4) (idx : BitVec 2) (xf : BitVec 3) :
    OpcodeOf.Statement (.setxf dev idx xf) :=
  ⟨_, _, rfl, by simp (disch := omega) only [opcode, extractLsb'_asWord, extractLsb'_append_high,
    -Nat.reduceAdd, -Nat.reduceSub]; rfl⟩

theorem OpcodeOf.xform (dev : BitVec 4) (x y : Half) : OpcodeOf.Statement (.xform dev x y) :=
  ⟨_, _, rfl, by simp (disch := omega) only [opcode, extractLsb'_asWord, extractLsb'_append_high,
    -Nat.reduceAdd, -Nat.reduceSub]; rfl⟩

theorem OpcodeOf.mappt (lx ly : Half) : OpcodeOf.Statement (.mappt lx ly) := ⟨_, _, rfl, rfl⟩

theorem OpcodeOf.blit (bx bY bw bh : Half) (bytes : List Byte) :
    OpcodeOf.Statement (.blit bx bY bw bh bytes) := ⟨_, _, rfl, rfl⟩

theorem OpcodeOf.compose : OpcodeOf.Statement .compose := ⟨_, _, rfl, by decide⟩

end Sys2Proof.Laws
end

