-- ==== Sys2Proof/Laws/Pixels.lean ====
section
/-! SUPPORT. What the pixel loops do, each said once: the point maps, the rebuild of SETROT, the
rectangle of BLIT, the rows and the passes of COMPOSE. -/

namespace Sys2Proof.Machine

/-! ### Point maps (43 R170) -/

theorem logicalWidth_mul_logicalHeight (p : Params) (n : Rot) :
    logicalWidth p n * logicalHeight p n = p.w0 * p.h0 := by
  cases n <;> simp [logicalWidth, logicalHeight, Nat.mul_comm]

/-- The physical point of a logical point lies on the panel. -/
theorem toPhysical_lt {p : Params} {n : Rot} {q : Nat × Nat} (hx : q.1 < logicalWidth p n)
    (hy : q.2 < logicalHeight p n) : (toPhysical p n q).1 < p.w0 ∧ (toPhysical p n q).2 < p.h0 := by
  cases n <;> simp only [logicalWidth, logicalHeight] at hx hy <;> simp only [toPhysical] <;> omega

/-- The logical point of a physical point lies on the surface. -/
theorem toLogical_lt {p : Params} {n : Rot} {q : Nat × Nat} (hx : q.1 < p.w0) (hy : q.2 < p.h0) :
    (toLogical p n q).1 < logicalWidth p n ∧ (toLogical p n q).2 < logicalHeight p n := by
  cases n <;> simp only [toLogical, logicalWidth, logicalHeight] <;> omega

theorem toLogical_toPhysical {p : Params} {n : Rot} {q : Nat × Nat} (hx : q.1 < logicalWidth p n)
    (hy : q.2 < logicalHeight p n) : toLogical p n (toPhysical p n q) = q := by
  obtain ⟨x, y⟩ := q
  cases n <;> simp only [logicalWidth, logicalHeight] at hx hy <;>
    refine Prod.ext ?_ ?_ <;> simp only [toPhysical, toLogical] <;> omega

theorem toPhysical_toLogical {p : Params} {n : Rot} {q : Nat × Nat} (hx : q.1 < p.w0)
    (hy : q.2 < p.h0) : toPhysical p n (toLogical p n q) = q := by
  obtain ⟨x, y⟩ := q
  simp only at hx hy
  cases n <;> refine Prod.ext ?_ ?_ <;> simp only [toPhysical, toLogical] <;> omega

/-! ### Loops over pixels -/

/-- Two pixels of one buffer that share a byte are one pixel. -/
theorem pixel_eq_of_overlap {w b x y x' y' a : Nat} (hx : x < w) (hx' : x' < w)
    (h : pixelOffset w b x y ≤ a ∧ a < pixelOffset w b x y + b)
    (h' : pixelOffset w b x' y' ≤ a ∧ a < pixelOffset w b x' y' + b) : x = x' ∧ y = y' := by
  have := pixelOffset_inj (w := w) (b := b) (y := y) (y' := y') (j := a - pixelOffset w b x y)
    (j' := a - pixelOffset w b x' y') hx hx' (by omega) (by omega) (by omega)
  exact ⟨this.1, this.2.1⟩

/-- A loop whose turns write distinct pixels: byte `j` of the pixel of turn `q` is the one turn `q`
gave it. -/
theorem foldl_pixels_read {α : Type} {w b j : Nat} (hj : j < b) (dst : α → Nat × Nat)
    (f : Memory → α → Memory) (val : α → Nat → Option Byte) (qs : List α) (m : Memory) (q : α)
    (hq : q ∈ qs) (hw : ∀ r ∈ qs, (dst r).1 < w) (hinj : ∀ r ∈ qs, dst r = dst q → r = q)
    (hf : ∀ r ∈ qs, ∀ m a, (f m r).read a =
      if pixelOffset w b (dst r).1 (dst r).2 ≤ a ∧ a < pixelOffset w b (dst r).1 (dst r).2 + b then
        val r (a - pixelOffset w b (dst r).1 (dst r).2)
      else m.read a) :
    (qs.foldl f m).read (pixelOffset w b (dst q).1 (dst q).2 + j) = val q j := by
  apply foldl_read_written f qs m _ q _ hq
  · intro m
    rw [hf q hq, if_pos ⟨by omega, by omega⟩, Nat.add_sub_cancel_left]
  · intro r hr hne m
    rw [hf r hr, if_neg]
    intro h
    obtain ⟨h1, h2⟩ := pixel_eq_of_overlap (hw r hr) (hw q hq) (y' := (dst q).2) h
      ⟨by omega, by omega⟩
    exact hne (hinj r hr (Prod.ext h1 h2))

/-- A loop over pixels leaves every byte of no pixel of it. -/
theorem foldl_pixels_untouched {α : Type} {w b : Nat} (dst : α → Nat × Nat)
    (f : Memory → α → Memory) (val : α → Nat → Option Byte) (qs : List α) (m : Memory) (a : Nat)
    (hf : ∀ r ∈ qs, ∀ m a, (f m r).read a =
      if pixelOffset w b (dst r).1 (dst r).2 ≤ a ∧ a < pixelOffset w b (dst r).1 (dst r).2 + b then
        val r (a - pixelOffset w b (dst r).1 (dst r).2)
      else m.read a)
    (ha : ∀ r ∈ qs, ∀ j < b, a ≠ pixelOffset w b (dst r).1 (dst r).2 + j) :
    (qs.foldl f m).read a = m.read a := by
  apply foldl_read_untouched
  intro r hr m
  rw [hf r hr, if_neg]
  intro h
  exact ha r hr (a - pixelOffset w b (dst r).1 (dst r).2) (by omega) (by omega)

/-! ### The rebuild of SETROT (43 R173) -/

/-- Everything `rebuild` writes: each pixel of the new buffer is the old buffer's pixel of the same
physical point. -/
theorem rebuild_read {p : Params} (old : Memory) (m n : Rot) {x y j : Nat}
    (hx : x < logicalWidth p n) (hy : y < logicalHeight p n) (hj : j < p.bytesPerPixel) :
    (rebuild p old m n).read (pixelOffset (logicalWidth p n) p.bytesPerPixel x y + j) =
      old.read (pixelOffset (logicalWidth p m) p.bytesPerPixel
        (toLogical p m (toPhysical p n (x, y))).1 (toLogical p m (toPhysical p n (x, y))).2 + j) :=
  foldl_pixels_read hj id _
    (fun q k => old.read (pixelOffset (logicalWidth p m) p.bytesPerPixel
        (toLogical p m (toPhysical p n q)).1 (toLogical p m (toPhysical p n q)).2 + k))
    _ _ (x, y) (mem_gridPoints.2 ⟨hx, hy⟩) (fun _ hr => (mem_gridPoints.1 hr).1)
    (fun _ _ h => h) fun _ _ _ _ => copyBytes_read ..

/-- Every other byte of the new buffer is unwritten. -/
theorem rebuild_read_outside {p : Params} (old : Memory) (m n : Rot) {a : Nat}
    (ha : ∀ x y j, x < logicalWidth p n → y < logicalHeight p n → j < p.bytesPerPixel →
      a ≠ pixelOffset (logicalWidth p n) p.bytesPerPixel x y + j) :
    (rebuild p old m n).read a = none :=
  foldl_pixels_untouched id _
    (fun q k => old.read (pixelOffset (logicalWidth p m) p.bytesPerPixel
        (toLogical p m (toPhysical p n q)).1 (toLogical p m (toPhysical p n q)).2 + k))
    _ _ _ (fun _ _ _ _ => copyBytes_read ..)
    fun r hr j hj => ha r.1 r.2 j (mem_gridPoints.1 hr).1 (mem_gridPoints.1 hr).2 hj

theorem rebuild_wf (p : Params) (old : Memory) (m n : Rot) : (rebuild p old m n).wf :=
  foldl_keeps Memory.wf _ _ _ (by simp [Memory.wf]) fun _ _ _ h => copyBytes_wf _ _ _ _ h

theorem rebuild_cells_lt (p : Params) (old : Memory) (m n : Rot) :
    ∀ c ∈ (rebuild p old m n).cells,
      c.1 < logicalWidth p n * logicalHeight p n * p.bytesPerPixel :=
  foldl_keeps (fun k => ∀ c ∈ k.cells, c.1 < logicalWidth p n * logicalHeight p n * p.bytesPerPixel)
    _ _ _ (by simp) fun _ hq _ h => copyBytes_cells_lt
      (pixelOffset_add_le (mem_gridPoints.1 hq).1 (mem_gridPoints.1 hq).2) h

/-! ### The rectangle of BLIT (44 R197) -/

/-- Everything BLIT writes: byte `k` of pixel `(i, j)` of the rectangle, from the payload. -/
theorem blitPixels_read {b lw bx bY bw bh i j k : Nat} (bytes : List Byte) (bb : Memory)
    (hi : i < bw) (hj : j < bh) (hk : k < b) (hw : bx + bw ≤ lw) :
    (blitPixels b lw bx bY bw bh bytes bb).read (pixelOffset lw b (bx + i) (bY + j) + k) =
      some (bytes.getD ((j * bw + i) * b + k) 0) :=
  foldl_pixels_read hk (fun q : Nat × Nat => (bx + q.1, bY + q.2)) _
    (fun q k => some (bytes.getD ((q.2 * bw + q.1) * b + k) 0)) _ _ (i, j)
    (mem_gridPoints.2 ⟨hi, hj⟩) (fun r hr => by have := (mem_gridPoints.1 hr).1; simp only; omega)
    (fun r _ h => by simp only [Prod.mk.injEq] at h; exact Prod.ext (by omega) (by omega))
    fun _ _ _ _ => storeBytes_read ..

/-- Every other byte of the buffer is as before. -/
theorem blitPixels_read_outside {b lw bx bY bw bh a : Nat} (bytes : List Byte) (bb : Memory)
    (ha : ∀ i j k, i < bw → j < bh → k < b → a ≠ pixelOffset lw b (bx + i) (bY + j) + k) :
    (blitPixels b lw bx bY bw bh bytes bb).read a = bb.read a :=
  foldl_pixels_untouched (fun q : Nat × Nat => (bx + q.1, bY + q.2)) _
    (fun q k => some (bytes.getD ((q.2 * bw + q.1) * b + k) 0)) _ _ _
    (fun _ _ _ _ => storeBytes_read ..)
    fun r hr k hk => ha r.1 r.2 k (mem_gridPoints.1 hr).1 (mem_gridPoints.1 hr).2 hk

theorem blitPixels_wf {b lw bx bY bw bh : Nat} {bytes : List Byte} {bb : Memory} (h : bb.wf) :
    (blitPixels b lw bx bY bw bh bytes bb).wf :=
  foldl_keeps Memory.wf _ _ _ h fun _ _ _ hm => storeBytes_wf _ _ _ _ hm

theorem blitPixels_cells_lt {b lw lh bx bY bw bh : Nat} {bytes : List Byte} {bb : Memory}
    (hw : bx + bw ≤ lw) (hh : bY + bh ≤ lh) (h : ∀ c ∈ bb.cells, c.1 < lw * lh * b) :
    ∀ c ∈ (blitPixels b lw bx bY bw bh bytes bb).cells, c.1 < lw * lh * b :=
  foldl_keeps (fun m => ∀ c ∈ m.cells, c.1 < lw * lh * b) _ _ _ h fun q hq _ hm => by
    have := mem_gridPoints.1 hq
    exact storeBytes_cells_lt (pixelOffset_add_le (by omega) (by omega)) hm

/-! ### The rows and the passes of COMPOSE (44 R199 to R203) -/

/-- Every row a pass copies is a row of the panel copied from `src_row` (44 R201). -/
theorem composeRows_src {h0 tfa vsa o : Nat} (h : tfa + vsa ≤ h0) (ho : o < vsa ∨ o = 0)
    {row : Nat × Nat} (hr : row ∈ composeRows h0 tfa vsa o) :
    row.1 < h0 ∧ row.2 < h0 ∧ row.2 = srcRow tfa vsa o row.1 := by
  simp only [composeRows, List.mem_append, List.mem_map, List.mem_range] at hr
  unfold srcRow
  obtain ((⟨py, hp, rfl⟩ | ⟨j, hj, rfl⟩) | ⟨j, hj, rfl⟩) | ⟨j, hj, rfl⟩ := hr <;>
    simp only
  · refine ⟨by omega, by omega, ?_⟩
    rw [if_pos hp]
  · refine ⟨by omega, by omega, ?_⟩
    rw [if_neg (by omega), if_pos (by omega), show tfa + j - tfa + o = o + j by omega,
      Nat.mod_eq_of_lt (by omega)]
    omega
  · refine ⟨by omega, by omega, ?_⟩
    rw [if_neg (by omega), if_pos (by omega), show tfa + vsa - o + j - tfa + o = vsa + j by omega,
      Nat.add_mod_left, Nat.mod_eq_of_lt (by omega)]
  · refine ⟨by omega, by omega, ?_⟩
    rw [if_neg (by omega), if_neg (by omega)]

/-- Every row of the panel is copied to. -/
theorem exists_composeRow {h0 tfa vsa o py : Nat} (h : tfa + vsa ≤ h0) (hp : py < h0) :
    ∃ row ∈ composeRows h0 tfa vsa o, row.1 = py := by
  simp only [composeRows, List.mem_append, List.mem_map, List.mem_range]
  by_cases h1 : py < tfa
  · exact ⟨_, .inl (.inl (.inl ⟨py, h1, rfl⟩)), rfl⟩
  by_cases h2 : py < tfa + (vsa - o)
  · exact ⟨_, .inl (.inl (.inr ⟨py - tfa, by omega, rfl⟩)), by simp only; omega⟩
  by_cases h3 : py < tfa + vsa
  · exact ⟨_, .inl (.inr ⟨py - (tfa + vsa - o), by omega, rfl⟩), by simp only; omega⟩
  · exact ⟨_, .inr ⟨py - (tfa + vsa), by omega, rfl⟩, by simp only; omega⟩

/-- Everything `copyrow(dst, src)` writes: the pixels of one physical row. -/
theorem State.copyRow_read (s : State) (pf : Memory) (row : Nat × Nat) {px j : Nat}
    (hx : px < s.par.w0) (hj : j < s.par.bytesPerPixel) :
    (s.copyRow pf row).read (pixelOffset s.par.w0 s.par.bytesPerPixel px row.1 + j) =
      s.bbByte (toLogical s.par s.rot (px, row.2)).1 (toLogical s.par s.rot (px, row.2)).2 j :=
  foldl_pixels_read hj (fun px => (px, row.1)) _
    (fun px k => s.bbByte (toLogical s.par s.rot (px, row.2)).1
      (toLogical s.par s.rot (px, row.2)).2 k) _ _ px (List.mem_range.2 hx)
    (fun _ hr => List.mem_range.1 hr) (fun _ _ h => (Prod.mk.inj h).1)
    fun _ _ _ _ => copyBytes_read ..

/-- Every byte outside the row is as before. -/
theorem State.copyRow_read_outside (s : State) (pf : Memory) (row : Nat × Nat) {a : Nat}
    (ha : ∀ px j, px < s.par.w0 → j < s.par.bytesPerPixel →
      a ≠ pixelOffset s.par.w0 s.par.bytesPerPixel px row.1 + j) :
    (s.copyRow pf row).read a = pf.read a :=
  foldl_pixels_untouched (fun px => (px, row.1)) _
    (fun px k => s.bbByte (toLogical s.par s.rot (px, row.2)).1
      (toLogical s.par s.rot (px, row.2)).2 k) _ _ _ (fun _ _ _ _ => copyBytes_read ..)
    fun px hr j hj => ha px j (List.mem_range.1 hr) hj

theorem State.copyRow_wf (s : State) {pf : Memory} (row : Nat × Nat) (h : pf.wf) :
    (s.copyRow pf row).wf :=
  foldl_keeps Memory.wf _ _ _ h fun _ _ _ hm => copyBytes_wf _ _ _ _ hm

theorem State.copyRow_cells_lt (s : State) {pf : Memory} {row : Nat × Nat} (hr : row.1 < s.par.h0)
    (h : ∀ c ∈ pf.cells, c.1 < s.par.w0 * s.par.h0 * s.par.bytesPerPixel) :
    ∀ c ∈ (s.copyRow pf row).cells, c.1 < s.par.w0 * s.par.h0 * s.par.bytesPerPixel :=
  foldl_keeps (fun m => ∀ c ∈ m.cells, c.1 < s.par.w0 * s.par.h0 * s.par.bytesPerPixel) _ _ _ h
    fun _ hq _ hm => copyBytes_cells_lt (pixelOffset_add_le (List.mem_range.1 hq) hr) hm

theorem State.composed_wf {s : State} (h : s.pf.wf) : s.composed.wf :=
  foldl_keeps Memory.wf _ _ _ h fun row _ _ hm => s.copyRow_wf row hm

theorem State.composed_cells_lt {s : State} (hw : s.tfa.toNat + s.vsa.toNat ≤ s.par.h0)
    (ho : s.scrollStart < s.vsa.toNat ∨ s.scrollStart = 0)
    (h : ∀ c ∈ s.pf.cells, c.1 < s.par.w0 * s.par.h0 * s.par.bytesPerPixel) :
    ∀ c ∈ s.composed.cells, c.1 < s.par.w0 * s.par.h0 * s.par.bytesPerPixel :=
  foldl_keeps (fun m => ∀ c ∈ m.cells, c.1 < s.par.w0 * s.par.h0 * s.par.bytesPerPixel) _ _ _ h
    fun _ hr _ hm => s.copyRow_cells_lt (composeRows_src hw ho hr).1 hm

end Sys2Proof.Machine
end

