-- ==== Sys2Proof/Laws/Reset.lean ====
section
/-! SUPPORT. The platform's reset, between commands and inside one: the fields it keeps, and the
writes a command cut off by it has made. -/

namespace Sys2Proof.Machine

variable {s t : State}

@[simp] theorem State.platformReset_par : s.platformReset.par = s.par := rfl
@[simp] theorem State.platformReset_stream : s.platformReset.stream = [] := rfl
@[simp] theorem State.platformReset_cp : s.platformReset.cp = 0 := rfl
@[simp] theorem State.platformReset_held : s.platformReset.held = [] := rfl
@[simp] theorem State.platformReset_busReady : s.platformReset.busReady = false := rfl
@[simp] theorem State.platformReset_trace : s.platformReset.trace = s.trace := rfl

/-- A command only appends to the trace (20 R55). -/
theorem exec_trace_prefix {i : Instr} (h : exec i s = .next t) : s.trace <+: t.trace := by
  cases i with
  | pinsel => rw [execPinsel_cases h]; simp
  | build =>
    obtain ⟨_, rfl⟩ | ⟨_, _, _, rfl⟩ | ⟨_, _, rfl⟩ := execBuild_cases h <;> simp
  | tx => obtain ⟨_, rfl⟩ | ⟨_, _, rfl⟩ | ⟨_, _, rfl⟩ := execTx_cases h <;> simp
  | setrot => obtain ⟨_, rfl⟩ | ⟨_, rfl⟩ := execSetrot_cases h <;> simp
  | getrot => rw [execGetrot_cases h]; simp
  | setwin => obtain ⟨_, rfl⟩ | ⟨_, rfl⟩ := execSetwin_cases h <;> simp
  | setofs =>
    obtain ⟨_, rfl⟩ | ⟨_, _, _, rfl⟩ | ⟨_, _, _, rfl⟩ := execSetofs_cases h <;> simp
  | getofs => rw [execGetofs_cases h]; simp
  | regdev => obtain ⟨_, rfl⟩ | ⟨_, _, rfl⟩ := execRegdev_cases h <;> simp
  | setxf => obtain ⟨_, rfl⟩ | ⟨_, _, rfl⟩ := execSetxf_cases h <;> simp
  | xform => obtain ⟨_, rfl⟩ | ⟨_, _, rfl⟩ := execXform_cases h <;> simp
  | mappt => obtain ⟨_, rfl⟩ | ⟨_, _, rfl⟩ := execMappt_cases h <;> simp
  | blit =>
    obtain ⟨_, rfl⟩ | ⟨_, _, _, rfl⟩ | ⟨_, _, _, rfl⟩ := execBlit_cases h <;> simp
  | compose => rw [execCompose_cases h]; simp

/-- A step only appends to the trace (20 R55). -/
theorem step_trace_prefix (h : step s = .next t) : s.trace <+: t.trace := by
  unfold step at h
  split at h
  · injection h with h; subst h; simp
  · injection h with h; subst h; simp [State.hold]
  · split at h
    · simpa [State.consume] using exec_trace_prefix h
    · injection h with h; subst h; simp [State.consume]

/-- The trace after a step is the old one and the writes the step issues. -/
theorem step_trace (h : step s = .next t) : t.trace = s.trace ++ s.nextWrites := by
  obtain ⟨ws, h1⟩ := step_trace_prefix h
  simp only [State.nextWrites, h]
  rw [← h1, List.drop_left]

/-- Everything a reset inside a command can leave: the reset of the state it found, and in the trace
as many of the command's writes as had been issued (70 R270). -/
theorem State.resetDuring_eq (s : State) (n : Nat) :
    s.resetDuring n = { s.platformReset with trace := s.trace ++ s.nextWrites.take n } := rfl

@[simp] theorem State.resetDuring_par (n : Nat) : (s.resetDuring n).par = s.par := rfl
@[simp] theorem State.resetDuring_busReady (n : Nat) : (s.resetDuring n).busReady = false := rfl
@[simp] theorem State.resetDuring_trace (n : Nat) :
    (s.resetDuring n).trace = s.trace ++ s.nextWrites.take n := rfl

/-- A reset before the first write is a reset between commands. -/
@[simp] theorem State.resetDuring_zero (s : State) : s.resetDuring 0 = s.platformReset := by
  simp [State.resetDuring_eq, State.platformReset]

/-- The writes a reset inside a command leaves in the trace are among those of the whole command. -/
theorem State.resetDuring_trace_prefix (h : step s = .next t) (n : Nat) :
    (s.resetDuring n).trace <+: t.trace := by
  rw [step_trace h, State.resetDuring_trace]
  exact (List.prefix_append_right_inj _).2 (List.take_prefix _ _)

end Sys2Proof.Machine
end

