-- ==== Sys2Proof/Laws/Window.lean ====
section
/-! SUPPORT. The register window: where an address lies, what settling does, what a run does. -/

namespace Sys2Proof.Machine

/-! ### Runs and settling (10 R37) -/

theorem run_zero (s : State) : Sys2Proof.core.run 0 s = .next s := rfl

/-- A run of one step more, from a state whose step answers a next state. -/
theorem run_succ {s t : State} (k : Nat) (h : step s = .next t) :
    Sys2Proof.core.run (k + 1) s = Sys2Proof.core.run k t := by
  have hc : Sys2Proof.core.step s = .next t := h
  simp only [Host.Core.run, hc]

/-- A state whose step is itself runs to itself. -/
theorem run_fixed {s : State} (k : Nat) (h : step s = .next s) :
    Sys2Proof.core.run k s = .next s := by
  induction k with
  | zero => rfl
  | succ k ih => rw [run_succ k h, ih]

/-- With no word ahead, settling changes nothing. -/
theorem settle_of_idle {s : State} (h1 : s.held = []) (h2 : s.stream.length ≤ s.cp) :
    s.settle = .next s := by
  apply run_fixed
  have h : s.fetched = .idle := by
    simp [State.fetched, State.wordsAhead, h1, frameCommand, List.drop_eq_nil_of_le h2]
  simp [step, h]

/-! ### Addresses of the window (10 R34, R35) -/

/-- An aligned 32-bit access at the block's register `k` has the offset `4 * k`. -/
theorem windowOffset_register {p : Params} (hp : p.Legal) {k : Nat} (hk : k < 16) :
    windowOffset p (p.blockBase + BitVec.ofNat 32 (4 * k)) 4 = .ok (4 * k) := by
  have h : p.blockBase.toNat % 64 = 0 := hp.1.2.2.2.2.2.2.2
  have hlt := p.blockBase.isLt
  have e : (p.blockBase + BitVec.ofNat 32 (4 * k)).toNat = p.blockBase.toNat + 4 * k := by
    rw [BitVec.toNat_add, BitVec.toNat_ofNat]
    omega
  unfold windowOffset
  rw [e, if_neg (by omega), if_neg (by omega), Nat.add_sub_cancel_left]

/-- An access that is not an aligned 32-bit access is refused (10 R35). -/
theorem windowOffset_refused {p : Params} {addr : Word} {width : Nat}
    (h : width ≠ 4 ∨ addr.toNat % 4 ≠ 0) : windowOffset p addr width = .error .hostAccess := by
  unfold windowOffset
  rw [if_pos h]

end Sys2Proof.Machine
end

