-- ==== Sys2Proof/Tests/Slice0.lean ====
section
/-! SUPPORT. The model's own tests: ill-formed terms refused, words of spec 95 decoded, single steps
against the vectors of spec 95 (the vector is named at each test), and for every statement with
hypotheses a witness that meets them. -/

open Sys2Proof Sys2Proof.Machine

namespace Sys2Proof.Tests

/-- A view of a next state. -/
def seen {α : Type} (f : State → α) : Host.Outcome State Fault Refusal → Option α
  | .next t => some (f t)
  | .fault _ => none
  | .refused _ => none

/-- The state after reset with a stream written. -/
def writes (ws : List Word) : State := { State.reset with stream := ws }

/-- The staging of the reference pin assignment (spec 95 section 0). -/
def refStage : Vector StageEntry 11 :=
  #v[⟨true, 9, false⟩, ⟨true, 46, false⟩, ⟨true, 3, false⟩, ⟨true, 8, false⟩, ⟨true, 18, false⟩,
    ⟨true, 17, false⟩, ⟨true, 16, false⟩, ⟨true, 15, false⟩, ⟨true, 5, false⟩, ⟨true, 6, true⟩,
    ⟨true, 7, false⟩]

/-- `SET(0) <- v` of the reference instance. -/
def set0 (v : Word) : GpioWrite := ⟨0x40000000#32, v⟩

/-- `CLR(0) <- v`. -/
def clr0 (v : Word) : GpioWrite := ⟨0x40000004#32, v⟩

/-- `SET(1) <- v`. -/
def set1 (v : Word) : GpioWrite := ⟨0x40000010#32, v⟩

/-- `CLR(1) <- v`. -/
def clr1 (v : Word) : GpioWrite := ⟨0x40000014#32, v⟩

/-- The control writes of the reference assignment (spec 95 section 0). -/
def refCtl : RegisterMap where
  cs := ⟨clr0 0x20#32, set0 0x20#32⟩
  dc := ⟨set0 0x40#32, clr0 0x40#32⟩
  wr := ⟨clr0 0x80#32, set0 0x80#32⟩

/-- The staged reference instance. -/
def staged : State := { State.reset with stage := refStage }

/-- The reference instance with its bus up (spec 95 V1), its tables and masks written out. -/
def busUp : State :=
  { staged with
    busReady := true
    ctl := refCtl
    ng := 2
    groups := buildLut referenceParams [9, 46, 3, 8, 18, 17, 16, 15] }

/-- The same after the byte 0x36 (spec 95 V12). -/
def sent : State :=
  { busUp with
    last := some 0x36
    trace := [clr0 0x20#32, clr0 0x40#32, set0 0x80#32, set0 0x60008#32, clr0 0x18300#32,
      set1 0x4000#32, clr1 0#32, clr0 0x80#32, set0 0x20#32] }

/-- A staging with one entry replaced. -/
def restaged (r : Fin 11) (e : StageEntry) : State := { staged with stage := refStage.set r.val e }

/-- One byte in the backing buffer of the reset state, at pixel `(3, 0)`. -/
def dotted : State := { State.reset with bb := ⟨[(3, 0xAB)]⟩ }

/-- A window `(1, 4, 1)` with offset 1 over a buffer of six one-pixel rows' first pixels (spec 95
V42, column 0). -/
def scrolled : State :=
  { State.reset with
    tfa := 1
    vsa := 4
    bfa := 1
    ofs := some 1
    bb := ⟨[(0, 0x00), (4, 0x10), (8, 0x20), (12, 0x30), (16, 0x40), (20, 0x50)]⟩ }

/-- A touch device with the native table in slot 0. -/
def device : Device := ⟨true, .touch, #v[0b000#3, 0b101#3, 0b011#3, 0b110#3]⟩

/-- The reset state with that device registered. -/
def touched : State := { State.reset with devices := State.reset.devices.set 0 device }

/-! ### Ill-formed terms (30 R82, R86) -/

theorem test_data_role_active_high_ill_formed :
    (Instr.pinsel (.data 0) true 9).wellFormed = false := by decide

theorem test_control_role_active_high_well_formed :
    (Instr.pinsel .dc true 6).wellFormed = true := by decide

/-- A payload longer than its length field can say is ill-formed. -/
theorem tx_long_ill_formed (bs : List Byte) (h : bs.length = 65536) :
    (Instr.tx none (some bs)).wellFormed = false := by
  simp [Instr.wellFormed, txLengthOk, h]

theorem blit_long_ill_formed (bs : List Byte) (h : bs.length = 4294967296) :
    (Instr.blit 0 0 0 0 bs).wellFormed = false := by
  simp [Instr.wellFormed, blitLengthOk, h]

theorem test_tx_of_65536_bytes_ill_formed :
    (Instr.tx none (some (List.replicate 65536 0))).wellFormed = false :=
  tx_long_ill_formed _ List.length_replicate

theorem test_blit_of_too_many_bytes_ill_formed :
    (Instr.blit 0 0 0 0 (List.replicate 4294967296 0)).wellFormed = false :=
  blit_long_ill_formed _ List.length_replicate

/-! ### Decoding: words written out in spec 95 and from the formats of 30 R81 -/

theorem test_decode_pinsel : decodeCommand [0x19800006#32] = .ok (.pinsel .dc true 6) := by decide

theorem test_decode_pinsel_data : decodeCommand [0x1100002E#32] = .ok (.pinsel (.data 1) false 46) := by
  decide

theorem test_decode_build : decodeCommand [0x20000000#32] = .ok .build := by decide

theorem test_decode_tx : decodeCommand [0x3C2A0003#32, 0x00003636#32] =
    .ok (.tx (some 0x2A) (some [0x36, 0x36, 0x00])) := by decide

/-- 20 R54: byte `k` of the payload is in bits `8k+7 .. 8k`. -/
theorem test_decode_tx_byte_order : decodeCommand [0x34000004#32, 0x44332211#32] =
    .ok (.tx none (some [0x11, 0x22, 0x33, 0x44])) := by decide

theorem test_decode_tx_empty_data : decodeCommand [0x34000000#32] = .ok (.tx none (some [])) := by
  decide

theorem test_decode_setrot : decodeCommand [0x4FFFFFA6#32] = .ok (.setrot 0xFFFFFA6) := by decide

theorem test_decode_getrot : decodeCommand [0x50000000#32] = .ok .getrot := by decide

theorem test_decode_setwin : decodeCommand [0x60000001#32, 0x00040001#32] = .ok (.setwin 1 4 1) := by
  decide

theorem test_decode_setofs : decodeCommand [0x70000003#32] = .ok (.setofs (some 3)) := by decide

theorem test_decode_setofs_disabled : decodeCommand [0x78000000#32] = .ok (.setofs none) := by decide

theorem test_decode_getofs : decodeCommand [0x80000000#32] = .ok .getofs := by decide

theorem test_decode_regdev : decodeCommand [0x90001CE8#32] = .ok (.regdev .touch 0 5 3 6) := by decide

theorem test_decode_setxf : decodeCommand [0xA0000003#32] = .ok (.setxf 0 0 3) := by decide

/-- From format `X` of 30 R81: DEV in bits 19..16, IDX in 5..4, XF in 2..0. -/
theorem test_decode_setxf_fields : decodeCommand [0xA00F0026#32] = .ok (.setxf 15 2 6) := by decide

theorem test_decode_xform : decodeCommand [0xB0000000#32, 0x00030001#32] = .ok (.xform 0 3 1) := by
  decide

theorem test_decode_mappt : decodeCommand [0xC0000000#32, 0x00060000#32] = .ok (.mappt 6 0) := by
  decide

theorem test_decode_blit :
    decodeCommand [0xD0000000#32, 0x00020005#32, 0x00020001#32, 0x00000002#32, 0x00002211#32] =
      .ok (.blit 2 5 2 1 [0x11, 0x22]) := by decide

theorem test_decode_compose : decodeCommand [0xE0000000#32] = .ok .compose := by decide

/-- The illegal words of V50, V8 and V40. -/
theorem test_decode_illegal :
    decodeCommand [0x00000000#32] = .error .reservedOpcode ∧
    decodeCommand [0xF0000000#32] = .error .reservedOpcode ∧
    decodeCommand [0x20000001#32] = .error .reservedBits ∧
    decodeCommand [0x30010000#32] = .error .commandByteWithoutC ∧
    decodeCommand [0x30000004#32, 0xE0000000#32] = .error .lengthWithoutD ∧
    decodeCommand [0x78000001#32] = .error .offsetWithDisable ∧
    decodeCommand [0x1B000005#32] = .error .reservedRole ∧
    decodeCommand [0x10800009#32] = .error .dataPolarity ∧
    decodeCommand [0x60010000#32, 0x00060000#32] = .error .reservedBits := by decide

/-- V51: an illegal TX is framed by its LEN. -/
theorem test_illegal_tx_framed :
    frameCommand [0x30000004#32, 0xE0000000#32, 0x50000000#32] =
      .command [0x30000004#32, 0xE0000000#32] := by decide

theorem test_decodeTableWord :
    decodeTableWord 32 0x50000000 = some .getrot ∧
    decodeTableWord 64 0x0004000160000001 = some (.setwin 1 4 1) ∧
    decodeTableWord 32 0x34000002 = some (.tx none (some [0, 0])) ∧
    decodeTableWord 32 0x00000000 = none := by decide

/-- The first step after reset runs the word placed. -/
theorem test_withFetchWord :
    seen (·.result) (step (State.reset.withFetchWord 32 0x80000000)) = some 0xFFFFFFFF#32 := by decide

/-! ### One step each -/

/-- V8. -/
theorem test_pinsel : seen (fun t => t.stage[9]) (step (writes [0x19800006#32])) =
    some ⟨true, 6, true⟩ := by decide

/-- V1: the installed masks' header. -/
theorem test_build : seen (fun t => (t.busReady, t.ng, t.groups.map fun g => (g.grp, g.full), t.last))
    (exec .build staged) = some (true, 2, [(0, 0x78308#32), (1, 0x4000#32)], none) := by decide

/-- V6: D0 and CS on one pin. -/
theorem test_build_duplicate : seen (fun t => (t.lastErr, t.busFatal, t.ng))
    (exec .build (restaged 8 ⟨true, 9, false⟩)) = some (.configDuplicatePin, true, 0) := by decide

/-- V12. -/
theorem test_tx_command : seen (·.trace) (exec (.tx (some 0x36) none) busUp) = some sent.trace := by
  decide

/-- V14: both bytes elided. -/
theorem test_tx_elided : seen (fun t => t.trace.drop 9) (exec (.tx (some 0x36) (some [0x36])) sent) =
    some [clr0 0x20#32, clr0 0x40#32, set0 0x80#32, clr0 0x80#32, set0 0x40#32, set0 0x80#32,
      clr0 0x80#32, set0 0x20#32] := by decide

/-- V21: the pixel at physical `(3, 0)` is logical `(0, 0)` at rotation 1. -/
theorem test_setrot : seen (fun t => (t.rot, t.bb)) (exec (.setrot 90) dotted) =
    some (.r90, ⟨[(0, 0xAB)]⟩) := by decide

/-- V50: -1 is not a multiple of 90. -/
theorem test_setrot_odd : seen (·.lastErr) (exec (.setrot 0xFFFFFFF) State.reset) =
    some .invalidRotation := by decide

/-- P3 step 4. -/
theorem test_getrot : seen (·.result) (exec .getrot { State.reset with rot := .r90 }) =
    some 0x5A#32 := by decide

/-- V40: 3 >= 2. -/
theorem test_setwin : seen (fun t => (t.tfa, t.vsa, t.bfa, t.ofs))
    (exec (.setwin 2 2 2) { scrolled with ofs := some 3 }) = some (2, 2, 2, none) := by decide

/-- V40: the sum does not wrap. -/
theorem test_setwin_no_wrap : seen (fun t => (t.lastErr, t.vsa))
    (exec (.setwin 0xFFFF 0xFFFF 8) State.reset) = some (.configScrollExtents, 6) := by decide

/-- V40. -/
theorem test_setofs : seen (fun t => (t.lastErr, t.ofs)) (exec (.setofs (some 4)) scrolled) =
    some (.invalidOffset, some 1) := by decide

/-- P2 step 5. -/
theorem test_getofs : seen (·.result) (exec .getofs scrolled) = some 0x1#32 := by decide

/-- V54. -/
theorem test_regdev : seen (fun t => (t.result, t.devices[1]))
    (exec (.regdev .touch 0 5 3 6) touched) = some (1#32, device) := by decide

/-- 45 R223. -/
theorem test_setxf : seen (fun t => t.devices[0].xf) (exec (.setxf 0 0 3) touched) =
    some #v[0b011#3, 0b101#3, 0b011#3, 0b110#3] := by decide

/-- V35, the code 0b011 at once. -/
theorem test_xform : seen (·.result) (exec (.xform 0 3 1)
    { touched with devices := touched.devices.set 0 ⟨true, .touch, #v[3, 5, 3, 6]⟩ }) =
    some 0x00000004#32 := by decide

/-- P3 step 6. -/
theorem test_mappt : seen (·.result) (exec (.mappt 1 0) { State.reset with rot := .r90 }) =
    some 0x00030001#32 := by decide

/-- V45. -/
theorem test_blit : seen (·.bb) (exec (.blit 2 5 2 1 [0x11, 0x22]) State.reset) =
    some ⟨[(22, 0x11), (23, 0x22)]⟩ := by decide

/-- V45: bounds are checked first. -/
theorem test_blit_bounds : seen (·.lastErr) (exec (.blit 3 0 2 1 [0xAA, 0xBB, 0xCC]) State.reset) =
    some .outOfBounds := by decide

/-- V42, column 0: rows 0, 2, 3, 4, 1, 5. -/
theorem test_compose : seen (fun t => t.pf.cells) (exec .compose scrolled) =
    some [(0, 0x00), (4, 0x20), (8, 0x30), (12, 0x40), (16, 0x10), (20, 0x50)] := by decide

/-- V52: the block holds inside a SETWIN. -/
theorem test_hold : seen (fun t => (t.waiting, t.vsa, t.cp)) (step (writes [0x60000001#32])) =
    some (true, 6, 1) := by decide

/-- 20 R52: an idle block is at the end of a run, a held one is not. -/
theorem test_end_of_run :
    State.reset.endOfRun = true ∧ (writes [0x60000001#32]).hold.endOfRun = false := by decide

/-- V70. -/
theorem test_config_register : State.reset.register 0x0C = 0x3F040801#32 := by decide

/-- A state whose window registers are not those after reset: a byte sent, an error reported, a
device registered, an offset set. -/
def shown : State :=
  { sent with
    lastErr := .fatal
    anyErr := true
    result := 0x89ABCDEF#32
    ofs := some 5
    devices := touched.devices }

/-- 10 R34, worked out by hand: `STATUS` 14 + 16; `BUS` ready, LAST valid, NG = 2, LAST = 0x36. -/
theorem test_window_registers :
    shown.register 0x04 = 0x0000001E#32 ∧ shown.register 0x10 = 0x00003625#32 ∧
    shown.register 0x24 = 0x00000005#32 ∧ shown.register 0x28 = 0x00000001#32 := by decide

/-- The bus up and a command byte 0x36 written, not yet sent. -/
def sending : State := { busUp with stream := [0x38360000#32] }

/-- 70 R270: a reset after four of the nine writes of V12 leaves those four. -/
theorem test_reset_during_tx :
    (sending.resetDuring 4).trace = sent.trace.take 4 ∧ (sending.resetDuring 4).cp = 0 ∧
    sending.nextWrites = sent.trace := by decide

/-! ### Witnesses: states and operands that meet the hypotheses of the statements -/

theorem witness_legal : referenceParams.Legal :=
  ⟨by decide, ⟨by decide, by decide⟩, by simp [referenceParams, Params.gpioAddrs], by decide⟩

/-- The 16-bit instance of program P4. -/
def params16 : Params :=
  { referenceParams with
    family := .pins16
    numPins := 48
    setAddrs := []
    clrAddrs := []
    bsrrAddrs := [0x40000000#32, 0x40000004#32, 0x40000008#32] }

theorem witness_legal16 : params16.Legal :=
  ⟨by decide, ⟨by decide, by decide⟩, by simp [params16, referenceParams, Params.gpioAddrs],
    by decide⟩

theorem witness_illegal_params : ¬{ referenceParams with w0 := 0 }.Legal := by
  intro h
  exact absurd h.1.2.1.1 (by decide)

/-- Every table of `busUp` is sound (spec 95 V4). -/
theorem busUp_sound : ∀ g ∈ busUp.groups, g.Sound referenceParams := by
  intro g hg
  obtain ⟨n, hn, rfl⟩ := mem_buildLut.1 hg
  have hlt : ∀ n ∈ ([9, 46, 3, 8, 18, 17, 16, 15] : List Byte),
      pinGroup referenceParams n < referenceParams.numGroups := by decide
  refine ⟨hlt n hn, by simp [lutGroup], fun e he => ?_, fullMask_lt _ _ _⟩
  simp only [lutGroup, List.mem_map] at he
  obtain ⟨v, _, rfl⟩ := he
  exact lutEntry_split _ _ _ _

/-- The invariant's hypotheses are met with the bus up, a byte sent and a trace (StepKeepsInvariant,
TxWritesAreBounded, RotationRoundTripRestores). -/
theorem witness_inv : sent.Inv where
  legal := witness_legal
  window := by decide
  offset := fun o h => nomatch h
  bus := by decide
  lastNone := by decide
  ngRange := by decide
  ngGroups := by decide
  ascending := by decide
  masks := fun _ => busUp_sound
  control := fun _ => by decide
  traced := by decide
  bbWf := by decide
  bbSize := by intro c hc; simp [sent, busUp, staged, State.reset, State.resetOf] at hc
  pfWf := by decide
  pfSize := by intro c hc; simp [sent, busUp, staged, State.reset, State.resetOf] at hc
  slots := by decide
  pointer := by decide
  heldWords := by decide
  heldOpen := .inl rfl
  waitingHeld := by decide

/-- A set or a clear of bits outside a mask leaves the bits of the mask. -/
theorem or_spares {o m f : Word} (h : m &&& f = 0#32) : (o ||| m) &&& f = o &&& f := by
  rw [BitVec.and_or_distrib_right, h, BitVec.or_zero]

theorem clear_spares {o m f : Word} (h : m &&& f = 0#32) : o &&& ~~~m &&& f = o &&& f := by
  apply BitVec.eq_of_getLsbD_eq
  intro i hi
  have h := congrArg (fun x => x.getLsbD i) h
  simp only [BitVec.getLsbD_and, BitVec.getLsbD_not, BitVec.getLsbD_zero, hi, decide_true,
    Bool.true_and] at h ⊢
  revert h
  cases o.getLsbD i <;> cases m.getLsbD i <;> cases f.getLsbD i <;> decide

/-- A set or clear write of group 0 that misses a group's data pins leaves them. -/
theorem group0_write_spares {m : Word} {k : Nat} {f : Word} (h : k = 0 → m &&& f = 0#32)
    (out : Latches) :
    portWrite referenceParams out (set0 m) k &&& f = out k &&& f ∧
      portWrite referenceParams out (clr0 m) k &&& f = out k &&& f := by
  have h1 : portWrite referenceParams out (set0 m) k = if k = 0 then out k ||| m else out k :=
    portWrite_set (k := 0) witness_legal rfl out (by decide) m k
  have h2 : portWrite referenceParams out (clr0 m) k = if k = 0 then out k &&& ~~~m else out k :=
    portWrite_clr (k := 0) witness_legal rfl out (by decide) m k
  rw [h1, h2]
  split_ifs with h0
  · exact ⟨or_spares (h h0), clear_spares (h h0)⟩
  · exact ⟨rfl, rfl⟩

/-- The control pins of the reference assignment are no data pins. -/
theorem sent_masks : ∀ m ∈ [0x20#32, 0x40#32, 0x80#32], ∀ g ∈ sent.groups,
    g.grp = 0 → m &&& g.full = 0#32 := by
  intro m hm g hg h0
  obtain ⟨n, _, rfl⟩ := mem_buildLut.1 hg
  have h0 : pinGroup referenceParams n = 0 := h0
  have hf : fullMask referenceParams 0 [9, 46, 3, 8, 18, 17, 16, 15] = 0x78308#32 := by decide
  have key : ∀ m ∈ [0x20#32, 0x40#32, 0x80#32], m &&& 0x78308#32 = 0#32 := by simp
  simp only [lutGroup, h0, hf]
  exact key m hm

theorem sent_spares : sent.ControlSparesData := by
  intro w hw g hg out
  have hw' : ∃ m ∈ [0x20#32, 0x40#32, 0x80#32], w = set0 m ∨ w = clr0 m := by
    simp only [RegisterMap.writes, sent, busUp, refCtl, List.mem_cons, List.not_mem_nil,
      or_false] at hw
    rcases hw with rfl | rfl | rfl | rfl | rfl | rfl <;> simp
  obtain ⟨m, hm, rfl | rfl⟩ := hw'
  · exact (group0_write_spares (sent_masks m hm g hg) out).1
  · exact (group0_write_spares (sent_masks m hm g hg) out).2

theorem sent_trace : sent.trace =
    [clr0 0x20#32, clr0 0x40#32, set0 0x80#32] ++ sent.groups.flatMap (dataWrite referenceParams 0x36) ++
      [clr0 0x80#32, set0 0x20#32] := by decide

/-- The invariant of 42 R149 is met with a byte on the lines (StepKeepsDataLinesAtLast). -/
theorem witness_busInv : sent.BusInv where
  inv := witness_inv
  control := fun _ => sent_spares
  lines := by
    intro _ v hv g hg out
    have hv : v = 0x36 := by simpa [sent, eq_comm] using hv
    subst hv
    have h := (portRun_dataWrites witness_legal 0x36 busUp_sound (witness_inv.ascending rfl)
      (portRun referenceParams out [clr0 0x20#32, clr0 0x40#32, set0 0x80#32])).1 g hg
    rw [sent_trace, portRun_append, portRun_append, portRun_cons, portRun_cons, portRun_nil,
      show sent.par = referenceParams from rfl,
      (group0_write_spares (sent_masks 0x20#32 (by simp) g hg) _).1,
      (group0_write_spares (sent_masks 0x80#32 (by simp) g hg) _).2]
    have hs : (g.entry 0x36).setMask &&& g.full = (g.entry 0x36).setMask := by
      rw [← ((busUp_sound g hg).entry 0x36).1, BitVec.and_or_distrib_left, BitVec.and_self,
        ((busUp_sound g hg).entry 0x36).2]
      exact BitVec.or_zero
    have hz : ∀ o : Word, o &&& ~~~g.full &&& g.full = 0#32 := by
      intro o
      rw [BitVec.and_assoc, BitVec.and_comm (~~~g.full), BitVec.and_not_self]
      exact BitVec.and_zero
    rw [show sent.groups = busUp.groups from rfl, h, BitVec.and_or_distrib_right, hz, hs,
      BitVec.zero_or]

/-! Encoding and framing. -/

theorem witness_EncodeThenDecode :
    (Instr.tx (some 0x2A) (some [0x36, 0x36, 0x00])).wellFormed = true ∧
    (Instr.pinsel (.data 7) false 255).wellFormed = true ∧
    (Instr.blit 0 0 2 1 [0xAA, 0xBB]).wellFormed = true := by decide

theorem witness_DecodedCommandReencodes :
    commandLength [0x3C2A0003#32, 0xFF003636#32] = some 2 ∧
    decodeCommand [0x3C2A0003#32, 0xFF003636#32] = .ok (.tx (some 0x2A) (some [0x36, 0x36, 0x00])) := by
  decide

/-- A legal command, and an illegal one for each clause of 30 R86. -/
theorem witness_DecoderRefusesExactlyIllegal :
    commandLength [0x20000000#32] = some 1 ∧ ¬Spec.Illegal 0x20000000#32 ∧
    commandLength [0x30000004#32, 0#32] = some 2 ∧ Spec.Illegal 0x30000004#32 ∧
    Spec.Illegal 0x00000000#32 ∧ Spec.Illegal 0xF0000000#32 ∧ Spec.Illegal 0x20000001#32 ∧
    Spec.Illegal 0x1B000005#32 ∧ Spec.Illegal 0x10800009#32 ∧ Spec.Illegal 0x30010000#32 ∧
    Spec.Illegal 0x78000001#32 := by
  refine ⟨?_, ?_, ?_, ?_, ?_, ?_, ?_, ?_, ?_, ?_, ?_⟩ <;> decide

theorem witness_CommandLengthByOpcode : Spec.op 0x60000001#32 ≠ 0xD := by decide

/-! Steps. -/

theorem witness_StepRunsDecodedCommand :
    (writes [0x60000001#32, 0x00040001#32]).fetched = .command [0x60000001#32, 0x00040001#32] ∧
    decodeCommand [0x60000001#32, 0x00040001#32] = .ok (.setwin 1 4 1) := by decide

theorem witness_IllegalCommandChangesStatusOnly :
    (writes [0x60010000#32, 0x00060000#32]).fetched = .command [0x60010000#32, 0x00060000#32] ∧
    Spec.Illegal 0x60010000#32 := ⟨by decide, by decide⟩

theorem witness_StepHoldsUntilLastWord : (writes [0x60000001#32]).fetched = .incomplete := by decide

theorem witness_IdleBlockKeepsState :
    State.reset.held = [] ∧ State.reset.stream.length ≤ State.reset.cp := by decide

/-- A step in each of the three cases. -/
theorem witness_StepMovesPointerByFetchedWords :
    seen (·.cp) (step State.reset) = some 0 ∧ seen (·.cp) (step (writes [0x60000001#32])) = some 1 ∧
    seen (·.cp) (step (writes [0x20000000#32])) = some 1 := by decide

theorem witness_SplitCommandRunsAsWhole :
    State.reset.held = [] ∧ State.reset.cp = State.reset.stream.length ∧
    frameCommand [0x60000001#32] = .incomplete ∧
    frameCommand ([0x60000001#32] ++ [0x00040001#32]) =
      .command ([0x60000001#32] ++ [0x00040001#32]) := by decide

/-! Errors: a command that fails and one that completes. -/

theorem witness_FailingCommandIsAllOrNothing :
    seen (fun t => decide (t.lastErr ≠ .ok)) (exec (.setofs (some 6)) State.reset) = some true := by
  decide

theorem witness_build_fails_with_fatal :
    seen (·.lastErr) (exec .build { State.reset with busFatal := true }) = some .fatal := by decide

theorem witness_StickyErrorFollowsStatus :
    seen (·.lastErr) (exec .getrot State.reset) = some .ok ∧
    seen (·.lastErr) (exec (.setofs (some 6)) State.reset) = some .invalidOffset := by decide

theorem witness_ResultOnlyFromProducers :
    seen (·.lastErr) (exec (.mappt 4 0) State.reset) = some .outOfBounds ∧
    Spec.producesResult .compose = false ∧ seen (·.lastErr) (exec .compose State.reset) = some .ok := by
  decide

/-- Commands that do change what they alone may write. -/
theorem witness_OnlyNamedCommandsWrite :
    seen (fun t => decide (t.ofs ≠ State.reset.ofs)) (exec (.setofs (some 5)) State.reset) =
      some true ∧
    seen (fun t => decide (t.rot ≠ State.reset.rot)) (exec (.setrot 90) State.reset) = some true ∧
    seen (fun t => decide (t.bb ≠ State.reset.bb)) (exec (.blit 0 0 1 1 [0xAA]) State.reset) =
      some true := by decide

theorem witness_StepKeepsInvariant :
    sent.Inv ∧ seen (·.cp) (step sent) = some 0 := ⟨witness_inv, by decide⟩

theorem witness_ReachableStatesMeetInvariant :
    referenceParams.Legal ∧ Reachable referenceParams State.reset := ⟨witness_legal, .reset⟩

/-! BUILD. -/

/-- The reference assignment passes every check; the other four stagings fail one each (V6). -/
theorem witness_BuildInstallsStagedPins :
    staged.busFatal = false ∧ ¬Spec.BusNotWide staged ∧ ¬Spec.ControlMissing staged ∧
    ¬Spec.PinOutOfRange staged ∧ ¬Spec.PinTwice staged := by
  unfold Spec.BusNotWide Spec.ControlMissing Spec.PinOutOfRange Spec.PinTwice
  decide

theorem witness_BuildReportsFirstError :
    Spec.BusNotWide (restaged 3 ⟨false, 8, false⟩) ∧
    Spec.ControlMissing (restaged 10 ⟨false, 7, false⟩) ∧
    Spec.PinOutOfRange (restaged 7 ⟨true, 64, false⟩) ∧
    Spec.PinTwice (restaged 8 ⟨true, 9, false⟩) :=
  ⟨⟨3, by decide⟩, ⟨10, by decide⟩, ⟨7, by decide⟩, ⟨0, 8, by decide⟩⟩

/-- Each of them fails no check made before (BuildReportsFirstError). -/
theorem witness_BuildReportsFirstError_order :
    ¬Spec.BusNotWide (restaged 10 ⟨false, 7, false⟩) ∧
    ¬Spec.BusNotWide (restaged 7 ⟨true, 64, false⟩) ∧
    ¬Spec.ControlMissing (restaged 7 ⟨true, 64, false⟩) ∧
    ¬Spec.BusNotWide (restaged 8 ⟨true, 9, false⟩) ∧
    ¬Spec.ControlMissing (restaged 8 ⟨true, 9, false⟩) ∧
    ¬Spec.PinOutOfRange (restaged 8 ⟨true, 9, false⟩) := by
  unfold Spec.BusNotWide Spec.ControlMissing Spec.PinOutOfRange
  decide

/-- A dead bus steps on. -/
theorem witness_DeadBusStaysDead :
    seen (·.lastErr) (step { writes [0x3C2A0000#32] with busFatal := true }) = some .fatal := by decide

theorem witness_InstalledLutIsExact :
    staged.par.Legal ∧ seen (fun t => (t.lastErr, t.groups.length)) (exec .build staged) =
      some (.ok, 2) := ⟨witness_legal, by decide⟩

/-! TX. -/

theorem witness_TxMakesTheTransaction : sent.busFatal = false ∧ sent.busReady = true := by decide

theorem witness_TxWriteCount :
    sent.busFatal = false ∧ sent.busReady = true ∧ sent.groups.length = sent.ng := by decide

theorem witness_TxWithoutBusFails :
    State.reset.busFatal = false ∧ State.reset.busReady = false := by decide

theorem witness_TxWritesAreBounded :
    sent.Inv ∧ (Instr.tx (some 0x36) (some [0x36])).wellFormed = true ∧
    seen (fun t => t.trace.length) (exec (.tx (some 0x36) (some [0x36])) sent) = some 17 :=
  ⟨witness_inv, by decide, by decide⟩

/-! Rotation. -/

/-- The corners of the reference panel (PointMapsAreBijections, MapptGivesPhysicalPoint). -/
theorem witness_MapptGivesPhysicalPoint :
    State.reset.par.inRange ∧ (3 : Half).toNat < State.reset.lw ∧ (5 : Half).toNat < State.reset.lh ∧
    (0 : Half).toNat < State.reset.lw := by decide

theorem witness_MapptRejectsOutside :
    State.reset.lw ≤ (4 : Half).toNat ∧ State.reset.lh ≤ (6 : Half).toNat := by decide

/-- A change of index, no change, and -90. -/
theorem witness_SetrotRotatesAndRebuilds :
    (90 : BitVec 28).toInt % 90 = 0 ∧ (360 : BitVec 28).toInt % 90 = 0 ∧
    (0xFFFFFA6 : BitVec 28).toInt % 90 = 0 := by decide

theorem witness_SetrotRejectsOddAngles :
    (45 : BitVec 28).toInt % 90 ≠ 0 ∧ (0xFFFFFFF : BitVec 28).toInt % 90 ≠ 0 := by decide

theorem witness_SetrotKeepsPhysicalImage :
    seen (·.rot) (exec (.setrot 90) dotted) = some .r90 ∧ 3 < dotted.par.w0 ∧ 5 < dotted.par.h0 ∧
    0 < dotted.par.bytesPerPixel := by decide

theorem witness_RotationRoundTripRestores :
    sent.Inv ∧ seen (·.lastErr) (exec (.setrot 90) sent) = some .ok ∧
    (0xFFFFE98 : BitVec 28).toInt % 360 = (sent.rot.degrees : Int) :=
  ⟨witness_inv, by decide, by decide⟩

/-! Scroll. -/

theorem witness_SetwinSetsWindow :
    (1 : Half).toNat + (4 : Half).toNat + (1 : Half).toNat = State.reset.par.h0 := by decide

theorem witness_SetwinRejectsWrongSum :
    (0xFFFF : Half).toNat + (0xFFFF : Half).toNat + (8 : Half).toNat ≠ State.reset.par.h0 := by decide

theorem witness_SetofsSetsOrRejects :
    (5 : Half).toNat < State.reset.vsa.toNat ∧ State.reset.vsa.toNat ≤ (6 : Half).toNat := by decide

/-- A rectangle that touches both edges (V45). -/
theorem witness_BlitWritesRectangle :
    (2 : Half).toNat + (2 : Half).toNat ≤ State.reset.lw ∧
    (5 : Half).toNat + (1 : Half).toNat ≤ State.reset.lh ∧
    ([0x11, 0x22] : List Byte).length =
      (2 : Half).toNat * (1 : Half).toNat * State.reset.par.bytesPerPixel := by decide

/-- V45: too wide, and a payload of 3 for 2 pixels. -/
theorem witness_BlitRejectsBadRectangle :
    State.reset.lw < (3 : Half).toNat + (2 : Half).toNat ∧
    (0 : Half).toNat + (2 : Half).toNat ≤ State.reset.lw ∧
    (0 : Half).toNat + (1 : Half).toNat ≤ State.reset.lh ∧
    ([0xAA, 0xBB, 0xCC] : List Byte).length ≠
      (2 : Half).toNat * (1 : Half).toNat * State.reset.par.bytesPerPixel := by decide

theorem witness_ComposeMatchesClosedForm :
    scrolled.tfa.toNat + scrolled.vsa.toNat + scrolled.bfa.toNat = scrolled.par.h0 ∧
    (∀ o, scrolled.ofs = some o → o.toNat < scrolled.vsa.toNat) ∧ State.reset.ofs = none :=
  ⟨by decide, fun o h => by cases h; decide, rfl⟩

theorem witness_ComposePlacesScrollEnds :
    scrolled.ofs = some 1 ∧ (1 : Half).toNat < scrolled.vsa.toNat ∧
    seen (·.lastErr) (exec .compose scrolled) = some .ok ∧ 3 < scrolled.par.w0 ∧
    0 < scrolled.par.bytesPerPixel := by decide

theorem witness_ComposeRowsPermute : 1 + 4 ≤ 6 ∧ 3 < 4 ∧ 6 + 0 ≤ 6 := by decide

/-! Devices. -/

/-- Slot 1 is the lowest free one. -/
theorem witness_RegdevFillsLowestFreeSlot :
    (1 : Fin 16).val < touched.par.numDevices ∧ touched.devices[1].valid = false ∧
    ∀ e : Fin 16, e.val < 1 → touched.devices[e.val].valid = true := by decide

/-- The reset state with every slot of the instance registered. -/
def full : State :=
  { State.reset with
    devices :=
      (((State.reset.devices.set 0 device).set 1 device).set 2 device).set 3 device }

theorem witness_RegdevRejectsFullTable :
    ∀ e : Fin 16, e.val < full.par.numDevices → full.devices[e.val].valid = true := by decide

theorem witness_SetxfReplacesOneEntry :
    (0 : BitVec 4).toNat < touched.par.numDevices ∧
    touched.devices[(0 : BitVec 4).toNat].valid = true := by decide

/-- V33: beyond the table, and an empty slot. -/
theorem witness_UnregisteredDeviceIsRejected :
    touched.par.numDevices ≤ (4 : BitVec 4).toNat ∧
    touched.devices[(1 : BitVec 4).toNat].valid = false := by decide

theorem witness_NativeTableInvertsPointMap :
    touched.par.inRange ∧ (0 : BitVec 4).toNat < touched.par.numDevices ∧
    touched.devices[(0 : BitVec 4).toNat].valid = true ∧
    touched.devices[(0 : BitVec 4).toNat].xf = #v[0b000#3, 0b101#3, 0b011#3, 0b110#3] ∧
    (3 : Half).toNat < touched.par.w0 ∧ (5 : Half).toNat < touched.par.h0 := by decide

/-! The window. -/

theorem shown_settled : shown.settle = .next shown := settle_of_idle rfl (by decide)

/-- A state that is settled, one that holds inside a command, and reset. -/
theorem witness_WindowReadsRegisters :
    shown.par.Legal ∧ shown.settle = .next shown ∧ shown.ng ≤ 8 ∧
    seen (·.register 0x04) (writes [0x60000001#32]).settle = some 0x20#32 ∧
    referenceParams.Legal := ⟨witness_legal, shown_settled, by decide, by decide, witness_legal⟩

/-- A command in progress that makes GPIO writes. -/
theorem witness_ResetGivesSpecValues :
    sending.par.inRange ∧ seen (fun t => t.trace.length) (step sending) = some 9 := by decide

theorem witness_StatusWriteClearsStickyError :
    State.reset.par.Legal ∧ State.reset.settle = .next State.reset ∧ State.reset.held = [] ∧
    State.reset.stream.length ≤ State.reset.cp :=
  ⟨witness_legal, settle_of_idle rfl (by decide), by decide, by decide⟩

theorem witness_HostWritesReachOnlyTheirRegister :
    State.reset.par.Legal ∧ (0x50000002#32).toNat % 4 ≠ 0 := ⟨witness_legal, by decide⟩

end Sys2Proof.Tests
end

section
/-! Proofs of family 41: PINSEL and BUILD, the RegisterMap and the lookup table (spec 41). -/

namespace Sys2Proof.Machine

variable {p : Params} {s t : State}

/-! ### The control writes of one pin (41 R117) -/

theorem regmap_of_pins32 (hf : p.family = .pins32) (n : Byte) (pol : Bool) :
    regmap p n pol =
      if pol then
        ⟨⟨p.setAddr (pinGroup p n), pinMask p n⟩, ⟨p.clrAddr (pinGroup p n), pinMask p n⟩⟩
      else
        ⟨⟨p.clrAddr (pinGroup p n), pinMask p n⟩, ⟨p.setAddr (pinGroup p n), pinMask p n⟩⟩ := by
  simp only [regmap, hf]

theorem regmap_of_pins16 (hf : p.family = .pins16) (n : Byte) (pol : Bool) :
    regmap p n pol =
      if pol then
        ⟨⟨p.bsrrAddr (pinGroup p n), pinMask p n⟩,
          ⟨p.bsrrAddr (pinGroup p n), pinMask p n <<< 16⟩⟩
      else
        ⟨⟨p.bsrrAddr (pinGroup p n), pinMask p n <<< 16⟩,
          ⟨p.bsrrAddr (pinGroup p n), pinMask p n⟩⟩ := by
  simp only [regmap, hf]

theorem pinGroup_of_pins32 (hf : p.family = .pins32) (n : Byte) :
    pinGroup p n = n.toNat / 32 := by simp only [pinGroup, hf, PortFamily.pins]

theorem pinGroup_of_pins16 (hf : p.family = .pins16) (n : Byte) :
    pinGroup p n = n.toNat / 16 := by simp only [pinGroup, hf, PortFamily.pins]

theorem pinMask_of_pins32 (hf : p.family = .pins32) (n : Byte) :
    pinMask p n = 1#32 <<< (n.toNat % 32) := by simp only [pinMask, pinBit, hf, PortFamily.pins]

theorem pinMask_of_pins16 (hf : p.family = .pins16) (n : Byte) :
    pinMask p n = 1#32 <<< (n.toNat % 16) := by simp only [pinMask, pinBit, hf, PortFamily.pins]

/-- Settles O23: each family's `regmap`, with the clear half of the combined register at bit
`n mod 16 + 16`. -/
theorem regmapGivesControlWrites : Obligations.RegmapGivesControlWrites := by
  intro p n
  constructor
  · intro hf
    rw [regmap_of_pins32 hf, regmap_of_pins32 hf, pinGroup_of_pins32 hf, pinMask_of_pins32 hf]
    exact ⟨rfl, rfl⟩
  · intro hf
    rw [regmap_of_pins16 hf, regmap_of_pins16 hf, pinGroup_of_pins16 hf, pinMask_of_pins16 hf,
      BitVec.shiftLeft_add]
    exact ⟨rfl, rfl⟩

/-! ### The staging and the checks of BUILD (41 R113) -/

theorem exec_build (s : State) : exec .build s = execBuild s := rfl

@[simp] theorem State.stagedDataPins_length (s : State) : s.stagedDataPins.length = 8 := by
  simp [State.stagedDataPins, State.stagedData]

theorem State.stagedDataPins_getElem (s : State) (r : Fin 8) :
    s.stagedDataPins[r.val]'(by simp) = Spec.dataPin s r := by
  simp [State.stagedDataPins, State.stagedData, Spec.dataPin]

theorem State.mem_stagedDataPins {n : Byte} :
    n ∈ s.stagedDataPins ↔ ∃ r : Fin 8, n = Spec.dataPin s r := by
  constructor
  · intro h
    obtain ⟨k, hk, rfl⟩ := List.mem_iff_getElem.1 h
    exact ⟨⟨k, by simpa using hk⟩, s.stagedDataPins_getElem ⟨k, by simpa using hk⟩⟩
  · rintro ⟨r, rfl⟩
    exact s.stagedDataPins_getElem r ▸ List.getElem_mem _

/-- The data pins are the first eight of the staged pins. -/
theorem State.stagedDataPins_sublist (s : State) : s.stagedDataPins.Sublist s.stagedPins :=
  (List.take_sublist 8 s.stage.toList).map _

/-- No check of `BUILD` fails exactly when the staging meets the conditions of 41 R116. -/
theorem State.configError_eq_none :
    s.configError = none ↔
      (∀ e ∈ s.stagedData, e.valid = true) ∧ (∀ e ∈ s.stagedControl, e.valid = true) ∧
        (∀ n ∈ s.stagedPins, n.toNat < s.par.numPins) ∧ s.stagedPins.Nodup := by
  unfold State.configError
  split_ifs <;> simp_all

/-- A BUILD that ends without an error passed every check and installed the table of the staged
data pins (41 R113). -/
theorem execBuild_ok (h : execBuild s = .next t) (hok : t.lastErr = .ok) :
    s.configError = none ∧ t.groups = buildLut s.par s.stagedDataPins := by
  obtain ⟨_, rfl⟩ | ⟨_, e, he, rfl⟩ | ⟨_, hc, rfl⟩ := execBuild_cases h
  · simp at hok
  · obtain rfl : e = .ok := by simpa using hok
    simpa using State.configError_cases he
  · exact ⟨hc, by simp⟩

/-! ### The masks of a lookup table at a pin (41 R118) -/

/-- Every group of the table of addressable pins is sound (10 R25). -/
theorem buildLut_sound {pins : List Byte} (h : ∀ n ∈ pins, n.toNat < p.numPins) {g : LutGroup}
    (hg : g ∈ buildLut p pins) : g.Sound p := by
  obtain ⟨n, hn, rfl⟩ := mem_buildLut.1 hg
  exact
    { grp_lt := pinGroup_lt_numGroups (h n hn)
      lut_length := by simp [lutGroup]
      masks := fun e he => by
        obtain ⟨v, -, rfl⟩ := List.mem_map.1 he
        exact lutEntry_split ..
      full_lt := fullMask_lt .. }

/-- Among the pins of a group, `FULL` marks the listed ones. -/
theorem fullMask_getLsbD_pinBit (p : Params) (pins : List Byte) (n : Byte) :
    (fullMask p (pinGroup p n) pins).getLsbD (pinBit p n) = true ↔ n ∈ pins := by
  rw [fullMask, groupMask_getLsbD, List.mem_iff_getElem]
  constructor
  · rintro ⟨k, hk, -, hg, hb⟩
    exact ⟨k, hk, pin_ext hg hb⟩
  · rintro ⟨k, hk, rfl⟩
    exact ⟨k, hk, rfl, rfl, rfl⟩

/-- `SETM` for `v` has at the `k`-th of distinct pins the bit `k` of `v`. -/
theorem lutEntry_setMask_getLsbD_pinBit {pins : List Byte} (hn : pins.Nodup) (v : Byte) {k : Nat}
    (hk : k < pins.length) :
    (lutEntry p (pinGroup p pins[k]) pins v).setMask.getLsbD (pinBit p pins[k]) =
      v.getLsbD k := by
  rw [Bool.eq_iff_iff, lutEntry, groupMask_getLsbD]
  constructor
  · rintro ⟨j, hj, hv, hg, hb⟩
    rwa [← (hn.getElem_inj_iff).1 (pin_ext hg hb)]
  · exact fun hv => ⟨k, hk, hv, rfl, rfl⟩

/-! ### The pins of a group after a data write (41 R119) -/

/-- What the data write of a sound group does to a pin of the group: a pin of `FULL` goes to its bit
of `SETM`, any other keeps its level. -/
theorem pinLevel_dataWrite (hp : p.Legal) {g : LutGroup} (hg : g.Sound p) (v : Byte)
    (out : Latches) {n : Byte} (hn : pinGroup p n = g.grp) :
    pinLevel p (portRun p out (dataWrite p v g)) n =
      if g.full.getLsbD (pinBit p n) then (g.entry v).setMask.getLsbD (pinBit p n)
      else pinLevel p out n := by
  have hsub : g.full.getLsbD (pinBit p n) = false →
      (g.entry v).setMask.getLsbD (pinBit p n) = false := by
    rw [← (hg.entry v).1, BitVec.getLsbD_or, Bool.or_eq_false_iff]
    exact And.left
  simp only [pinLevel, portRun_dataWrite hp hg, hn, ↓reduceIte, BitVec.getLsbD_or,
    BitVec.getLsbD_and, BitVec.getLsbD_not, pinBit_lt_32, decide_true, Bool.true_and]
  cases hf : g.full.getLsbD (pinBit p n)
  · simp [hsub hf]
  · simp

section Table

variable {pins : List Byte} {g : LutGroup}

/-- A data pin goes to its bit of the byte. -/
theorem pinLevel_dataWrite_of_data (hp : p.Legal) (hlt : ∀ n ∈ pins, n.toNat < p.numPins)
    (hnd : pins.Nodup) (hg : g ∈ buildLut p pins) (v : Byte) (out : Latches) {k : Nat}
    (hk : k < pins.length) (hgrp : pinGroup p pins[k] = g.grp) :
    pinLevel p (portRun p out (dataWrite p v g)) pins[k] = v.getLsbD k := by
  rw [pinLevel_dataWrite hp (buildLut_sound hlt hg) v out hgrp]
  obtain ⟨m, -, rfl⟩ := mem_buildLut.1 hg
  have hm : pinGroup p pins[k] = pinGroup p m := hgrp
  rw [lutGroup_entry, ← hm, lutEntry_setMask_getLsbD_pinBit hnd v hk]
  exact if_pos ((fullMask_getLsbD_pinBit p pins pins[k]).2 (List.getElem_mem hk))

/-- A pin of the group that is no data pin keeps its level. -/
theorem pinLevel_dataWrite_of_not_data (hp : p.Legal) (hlt : ∀ n ∈ pins, n.toNat < p.numPins)
    (hg : g ∈ buildLut p pins) (v : Byte) (out : Latches) {n : Byte} (hn : n ∉ pins)
    (hgrp : pinGroup p n = g.grp) :
    pinLevel p (portRun p out (dataWrite p v g)) n = pinLevel p out n := by
  rw [pinLevel_dataWrite hp (buildLut_sound hlt hg) v out hgrp]
  obtain ⟨m, -, rfl⟩ := mem_buildLut.1 hg
  have hm : pinGroup p n = pinGroup p m := hgrp
  rw [← hm]
  exact if_neg (mt (fullMask_getLsbD_pinBit p pins n).1 hn)

end Table

/-- Settles O27: a successful BUILD installs the table of eight distinct addressable pins, and the
data write of such a table moves the data pins of its group only. -/
theorem installedLutIsExact : Obligations.InstalledLutIsExact := by
  intro s t hp hexec hok v out g hg
  obtain ⟨hc, hgroups⟩ := execBuild_ok (exec_build s ▸ hexec) hok
  obtain ⟨-, -, hpins, hnd⟩ := State.configError_eq_none.1 hc
  have hsub := s.stagedDataPins_sublist
  have hlt : ∀ n ∈ s.stagedDataPins, n.toNat < s.par.numPins :=
    fun n hn => hpins n (hsub.subset hn)
  rw [hgroups] at hg
  have hother : ∀ (out : Latches) (n : Byte), n.toNat / s.par.family.pins = g.grp →
      (∀ r : Fin 8, n ≠ Spec.dataPin s r) →
      pinLevel s.par (portRun s.par out (dataWrite s.par v g)) n = pinLevel s.par out n := by
    intro out n hgrp hn
    have hmem : n ∉ s.stagedDataPins := fun h => by
      obtain ⟨r, hr⟩ := State.mem_stagedDataPins.1 h
      exact hn r hr
    exact pinLevel_dataWrite_of_not_data hp hlt hg v out hmem hgrp
  refine ⟨fun r hgrp => ?_, hother out, fun n hgrp hn => ?_⟩
  · rw [← s.stagedDataPins_getElem] at hgrp ⊢
    exact pinLevel_dataWrite_of_data hp hlt (hnd.sublist hsub) hg v out (by simp) hgrp
  · exact (hother _ n hgrp hn).trans BitVec.getLsbD_zero

end Sys2Proof.Machine
end

section
/-! Proofs of family 42: the strobes and the transaction of TX (spec 42). -/

namespace Sys2Proof.Machine

variable {s : State}

/-! ### The number of writes of a strobe (42 R147) -/

/-- One data write per group of the bus, each of one or two writes by family. -/
theorem State.dataWrites_length (hg : s.groups.length = s.ng) (v : Byte) :
    (s.dataWrites v).length = (if s.par.family = .pins32 then 2 else 1) * s.ng := by
  simp [State.dataWrites, List.length_flatMap, dataWrite_length, hg, Nat.mul_comm]

theorem State.strobe_length (hg : s.groups.length = s.ng) (last : Option Byte) (v : Byte) :
    (s.strobe last v).length =
      if last = some v then 2
      else 2 + (if s.par.family = .pins32 then 2 else 1) * s.ng := by
  unfold State.strobe
  by_cases h : last = some v
  · simp [h]
  · simp [h, State.dataWrites_length hg]; omega

/-- Every byte of a sequence has its two write-strobe edges, and every byte that is not elided its
data writes. -/
theorem State.strobes_length (hg : s.groups.length = s.ng) (last : Option Byte) (vs : List Byte) :
    (s.strobes last vs).length =
      2 * vs.length +
        (if s.par.family = .pins32 then 2 else 1) * s.ng * Spec.written last vs := by
  induction vs generalizing last with
  | nil => simp [Spec.written]
  | cons v vs ih =>
    rw [State.strobes_cons, List.length_append, State.strobe_length hg, ih, List.length_cons,
      Spec.written]
    by_cases h : last = some v
    · simp only [if_pos h, Nat.zero_add]; omega
    · simp only [if_neg h, Nat.mul_add, Nat.mul_one]; omega

/-! ### The writes of a transaction (42 R141) -/

theorem State.strobes_append (s : State) (last : Option Byte) (us vs : List Byte) :
    s.strobes last (us ++ vs) = s.strobes last us ++ s.strobes (lastAfter last us) vs := by
  induction us generalizing last with
  | nil => rfl
  | cons u us ih => simp [ih]

theorem State.commandPhase_length (s : State) (cmd : Option Byte) :
    (s.commandPhase cmd).length = cmd.toList.length + (s.strobes s.last cmd.toList).length := by
  cases cmd with
  | none => rfl
  | some c => simp [State.commandPhase, Nat.add_comm]

theorem State.dataPhase_length (s : State) (last : Option Byte) (data : Option (List Byte)) :
    (s.dataPhase last data).length =
      data.toList.length + (s.strobes last (data.getD [])).length := by
  cases data with
  | none => rfl
  | some bs => simp [State.dataPhase, Nat.add_comm]

/-- A transaction is two chip-select writes, a data/command write for each phase present, and the
strobes of the command byte and the data bytes as one sequence. -/
theorem State.transaction_length (s : State) (cmd : Option Byte) (data : Option (List Byte)) :
    (s.transaction cmd data).length =
      2 + cmd.toList.length + data.toList.length +
        (s.strobes s.last (cmd.toList ++ data.getD [])).length := by
  rw [State.strobes_append, List.length_append, State.transaction, List.length_append,
    List.cons_append, List.length_cons, List.length_append, State.commandPhase_length,
    State.dataPhase_length, List.length_singleton]
  omega

theorem exec_tx (cmd : Option Byte) (data : Option (List Byte)) (s : State) :
    exec (.tx cmd data) s = execTx cmd data s := rfl

/-- On a usable bus TX answers the state with its transaction emitted. -/
theorem execTx_of_busReady (hf : s.busFatal = false) (hr : s.busReady = true)
    (cmd : Option Byte) (data : Option (List Byte)) :
    execTx cmd data s = .next
      (s.emit (s.transaction cmd data)
        (lastAfter s.last (cmd.toList ++ data.getD []))).complete := by
  simp [execTx, hf, hr]

/-- Settles O30: the strobe count is by the elision test, and the strobes of a transaction count as
those of its command byte and data bytes in one sequence, since `LAST` passes from the command phase
to the data phase. -/
theorem txWriteCount : Obligations.TxWriteCount := by
  intro cmd data s hf hr hg
  refine ⟨State.strobe_length hg, _,
    (exec_tx cmd data s).trans (execTx_of_busReady hf hr cmd data), ?_⟩
  rw [State.complete_trace, State.emit_trace, List.length_append, State.transaction_length,
    State.strobes_length hg]
  omega

end Sys2Proof.Machine
end

section
/-! Proofs of family 43: the point maps and the physical image SETROT keeps (spec 43). -/

namespace Sys2Proof.Machine

variable {s : State}

/-! ### The formulas of the point maps (43 R170) -/

/-- A coordinate counted from the far edge is exact over the integers, since the edge bounds it. -/
theorem intCast_sub_one_sub {k x : Nat} (h : x < k) :
    ((k - 1 - x : Nat) : Int) = (k : Int) - 1 - x := by omega

/-- Settles O32: the ranges and the inverse laws are those of the point maps, and the formulas hold
over the integers because no subtraction goes below 0 inside the grid. -/
theorem pointMapsAreBijections : Obligations.PointMapsAreBijections := by
  intro p
  refine ⟨fun n x y hx hy => ?_, fun n px py hx hy => ?_, fun n x y hx hy => ?_⟩
  · obtain ⟨hpx, hpy⟩ := toPhysical_lt (q := (x, y)) hx hy
    exact ⟨hpx, hpy, toLogical_toPhysical hx hy⟩
  · obtain ⟨hlx, hly⟩ := toLogical_lt (n := n) (q := (px, py)) hx hy
    exact ⟨hlx, hly, toPhysical_toLogical hx hy⟩
  · cases n with
    | r0 => rfl
    | r90 => exact Prod.ext (intCast_sub_one_sub hy) rfl
    | r180 => exact Prod.ext (intCast_sub_one_sub hx) (intCast_sub_one_sub hy)
    | r270 => exact Prod.ext rfl (intCast_sub_one_sub hx)

/-! ### The physical image in the backing buffer (43 R174) -/

theorem exec_setrot (imm : BitVec 28) (s : State) : exec (.setrot imm) s = execSetrot imm s := rfl

@[simp] theorem State.raise_bbByte (e : ErrCode) (x y j : Nat) :
    (s.raise e).bbByte x y j = s.bbByte x y j := rfl

@[simp] theorem State.complete_bbByte (x y j : Nat) :
    s.complete.bbByte x y j = s.bbByte x y j := rfl

theorem State.setRotation_bbByte (n : Rot) (bb : Memory) (x y j : Nat) :
    (s.setRotation n bb).bbByte x y j =
      bb.read (pixelOffset (logicalWidth s.par n) s.par.bytesPerPixel x y + j) := rfl

/-- The rebuilt buffer holds at the new logical point of a physical pixel what the old one holds at
its old logical point. -/
theorem State.setRotation_rebuild_bbByte (s : State) (n : Rot) {px py j : Nat}
    (hx : px < s.par.w0) (hy : py < s.par.h0) (hj : j < s.par.bytesPerPixel) :
    (s.setRotation n (rebuild s.par s.bb s.rot n)).bbByte
        (toLogical s.par n (px, py)).1 (toLogical s.par n (px, py)).2 j =
      s.bbByte (toLogical s.par s.rot (px, py)).1 (toLogical s.par s.rot (px, py)).2 j := by
  obtain ⟨hlx, hly⟩ := toLogical_lt (n := n) (q := (px, py)) hx hy
  rw [State.setRotation_bbByte, rebuild_read s.bb s.rot n hlx hly hj, Prod.mk.eta,
    toPhysical_toLogical hx hy]
  rfl

/-- A change of rotation keeps the physical image, with or without a rebuild. -/
theorem State.rotateTo_bbByte (s : State) (n : Rot) {px py j : Nat}
    (hx : px < s.par.w0) (hy : py < s.par.h0) (hj : j < s.par.bytesPerPixel) :
    (s.rotateTo n).bbByte (toLogical s.par n (px, py)).1 (toLogical s.par n (px, py)).2 j =
      s.bbByte (toLogical s.par s.rot (px, py)).1 (toLogical s.par s.rot (px, py)).2 j := by
  obtain ⟨rfl, hsame⟩ | ⟨_, hrebuilt⟩ := s.rotateTo_cases n
  · rw [hsame]
  · rw [hrebuilt]
    exact s.setRotation_rebuild_bbByte n hx hy hj

/-- Settles O35: a rejected SETROT changes no byte, and any other keeps the physical image with its
change of rotation. -/
theorem setrotKeepsPhysicalImage : Obligations.SetrotKeepsPhysicalImage := by
  intro imm s t h px py j hx hy hj
  obtain ⟨_, rfl⟩ | ⟨_, rfl⟩ := execSetrot_cases (exec_setrot imm s ▸ h)
  · rw [State.raise_bbByte, State.raise_rot]
  · rw [State.complete_bbByte, State.complete_rot, State.rotateTo_rot]
    exact s.rotateTo_bbByte _ hx hy hj

end Sys2Proof.Machine
end

section
/-! Proofs of family 44: the rows and the physical frame of COMPOSE (spec 44). -/

namespace Sys2Proof.Machine

variable {s : State} {h0 tfa vsa o : Nat}

/-! ### The source row (44 R196) -/

/-- Inside the scroll area the source row is a rotation of the area's rows. -/
theorem srcRow_scrollArea {k : Nat} (hk : k < vsa) :
    srcRow tfa vsa o (tfa + k) = tfa + (k + o) % vsa := by
  rw [srcRow, if_neg (by omega), if_pos (by omega), Nat.add_sub_cancel_left]

/-- Offset 0 leaves every row in its place, whatever the window (44 R201). -/
@[simp] theorem srcRow_offset_zero (tfa vsa py : Nat) : srcRow tfa vsa 0 py = py := by
  unfold srcRow
  split_ifs with htop hscroll
  · rfl
  · rw [Nat.add_zero, Nat.mod_eq_of_lt (by omega)]; omega
  · rfl

/-- One more row of offset, round the end of the area, is one row further down at the old offset. -/
theorem srcRow_succ_offset {k : Nat} (hk : k < vsa) :
    srcRow tfa vsa ((o + 1) % vsa) (tfa + k) = srcRow tfa vsa o (tfa + (k + 1) % vsa) := by
  rw [srcRow_scrollArea hk, srcRow_scrollArea (Nat.mod_lt _ (by omega)), Nat.add_mod_mod,
    Nat.mod_add_mod, Nat.add_assoc k 1 o, Nat.add_comm 1 o]

/-! ### The rows of the four passes (44 R199) -/

/-- The first `a + b + c + d` rows in four consecutive parts. -/
theorem range_four_parts (a b c d : Nat) :
    List.range (a + b + c + d) =
      List.range a ++ (List.range b).map (a + ·) ++ (List.range c).map (a + b + ·) ++
        (List.range d).map (a + b + c + ·) := by
  rw [List.range_add, List.range_add, List.range_add]

/-- The passes write the physical rows from top to bottom. -/
theorem composeRows_map_fst (h : tfa + vsa ≤ h0) (ho : o ≤ vsa) :
    (composeRows h0 tfa vsa o).map Prod.fst = List.range h0 := by
  have hparts := range_four_parts tfa (vsa - o) o (h0 - (tfa + vsa))
  rw [show tfa + (vsa - o) + o = tfa + vsa by omega, show tfa + (vsa - o) = tfa + vsa - o by omega,
    show tfa + vsa + (h0 - (tfa + vsa)) = h0 by omega] at hparts
  rw [hparts]
  simp [composeRows, Function.comp_def]

/-- The passes read the buffer rows from top to bottom but for the two parts of the scroll area,
which change places. -/
theorem composeRows_map_snd_perm (h : tfa + vsa ≤ h0) (ho : o ≤ vsa) :
    ((composeRows h0 tfa vsa o).map Prod.snd).Perm (List.range h0) := by
  have hparts := range_four_parts tfa o (vsa - o) (h0 - (tfa + vsa))
  rw [show tfa + o + (vsa - o) = tfa + vsa by omega,
    show tfa + vsa + (h0 - (tfa + vsa)) = h0 by omega, List.append_assoc (List.range tfa)] at hparts
  rw [hparts]
  have hswap := List.perm_append_comm (l₁ := (List.range (vsa - o)).map (tfa + o + ·))
    (l₂ := (List.range o).map (tfa + ·))
  have hreads : (composeRows h0 tfa vsa o).map Prod.snd =
      List.range tfa ++ ((List.range (vsa - o)).map (tfa + o + ·) ++
        (List.range o).map (tfa + ·)) ++ (List.range (h0 - (tfa + vsa))).map (tfa + vsa + ·) := by
    simp [composeRows, Function.comp_def]
  rw [hreads]
  exact (hswap.append_left _).append_right _

/-- Settles O48: the rows written are all rows in order, the rows read all rows with the two parts
of the scroll area exchanged, and `src_row` rotates the scroll area. -/
theorem composeRowsPermute : Obligations.ComposeRowsPermute := by
  intro h0 tfa vsa o h ho
  have hle : o ≤ vsa := by omega
  refine ⟨?_, composeRows_map_snd_perm h hle, fun _ hr => (composeRows_src h ho hr).2.2,
    fun _ hk => srcRow_succ_offset hk⟩
  rw [composeRows_map_fst h hle]

/-! ### The physical frame after COMPOSE (44 R201) -/

theorem exec_compose (s : State) : exec .compose s = execCompose s := rfl

theorem State.scrollStart_of_some {o : Half} (h : s.ofs = some o) : s.scrollStart = o.toNat := by
  simp [State.scrollStart, h]

theorem State.scrollStart_of_none (h : s.ofs = none) : s.scrollStart = 0 := by
  simp [State.scrollStart, h]

/-- The offset's invariant as the passes need it (44 R192). -/
theorem State.scrollStart_lt_or_eq_zero (h : ∀ o, s.ofs = some o → o.toNat < s.vsa.toNat) :
    s.scrollStart < s.vsa.toNat ∨ s.scrollStart = 0 := by
  cases ho : s.ofs with
  | none => exact .inr (State.scrollStart_of_none ho)
  | some o => exact .inl (State.scrollStart_of_some ho ▸ h o ho)

/-- Every pixel of the frame is the buffer's at its source row: one pass copies the row, and every
other row copied is another row of the frame. -/
theorem State.composed_read (hw : s.tfa.toNat + s.vsa.toNat ≤ s.par.h0)
    (ho : s.scrollStart < s.vsa.toNat ∨ s.scrollStart = 0) {px py j : Nat}
    (hx : px < s.par.w0) (hy : py < s.par.h0) (hj : j < s.par.bytesPerPixel) :
    s.composed.read (pixelOffset s.par.w0 s.par.bytesPerPixel px py + j) =
      s.bbByte (toLogical s.par s.rot (px, srcRow s.tfa.toNat s.vsa.toNat s.scrollStart py)).1
        (toLogical s.par s.rot (px, srcRow s.tfa.toNat s.vsa.toNat s.scrollStart py)).2 j := by
  obtain ⟨row, hr, rfl⟩ := exists_composeRow (o := s.scrollStart) hw hy
  obtain ⟨-, -, hsrc⟩ := composeRows_src hw ho hr
  rw [← hsrc]
  refine foldl_read_written _ _ _ _ row _ hr (fun m => s.copyRow_read m row hx hj) ?_
  intro other hother hne m
  refine s.copyRow_read_outside m other fun px' j' hx' hj' heq => hne ?_
  obtain ⟨-, hdst, -⟩ := pixelOffset_inj hx hx' hj hj' heq
  obtain ⟨-, -, hsrc'⟩ := composeRows_src hw ho hother
  exact Prod.ext hdst.symm (by rw [hsrc', ← hdst, hsrc])

/-- No pass writes a byte beyond the frame. -/
theorem State.composed_read_outside (hw : s.tfa.toNat + s.vsa.toNat ≤ s.par.h0)
    (ho : s.scrollStart < s.vsa.toNat ∨ s.scrollStart = 0) {a : Nat}
    (ha : s.par.w0 * s.par.h0 * s.par.bytesPerPixel ≤ a) : s.composed.read a = s.pf.read a := by
  refine foldl_read_untouched _ _ _ _ fun row hr m => s.copyRow_read_outside m row ?_
  intro px j hx hj
  obtain ⟨hrow, -, -⟩ := composeRows_src hw ho hr
  have := pixelOffset_add_le (b := s.par.bytesPerPixel) hx hrow
  omega

/-- Settles O46: the four passes give the closed form, which at offset 0 is the direct copy. -/
theorem composeMatchesClosedForm : Obligations.ComposeMatchesClosedForm := by
  intro s hsum hofs
  have hw : s.tfa.toNat + s.vsa.toNat ≤ s.par.h0 := by omega
  have ho := State.scrollStart_lt_or_eq_zero hofs
  refine ⟨s.composed, exec_compose s, fun px py j => State.composed_read hw ho,
    fun hdirect px py j hx hy hj => ?_, fun a => State.composed_read_outside hw ho⟩
  have hzero : s.scrollStart = 0 :=
    hdirect.elim State.scrollStart_of_none State.scrollStart_of_some
  rw [State.composed_read hw ho hx hy hj, hzero, srcRow_offset_zero]

/-- Settles O47: the closed form at the first and the last row of the scroll area. -/
theorem composePlacesScrollEnds : Obligations.ComposePlacesScrollEnds := by
  intro s t o hsum hofs hlt hexec px j hx hj
  obtain rfl := execCompose_cases (exec_compose s ▸ hexec)
  have hw : s.tfa.toNat + s.vsa.toNat ≤ s.par.h0 := by omega
  have hstart := State.scrollStart_of_some hofs
  have hread : ∀ k < s.vsa.toNat,
      (s.setFrame s.composed).complete.pfByte px (s.tfa.toNat + k) j =
        s.bbByte (toLogical s.par s.rot (px, s.tfa.toNat + (k + o.toNat) % s.vsa.toNat)).1
          (toLogical s.par s.rot (px, s.tfa.toNat + (k + o.toNat) % s.vsa.toNat)).2 j := by
    intro k hk
    have := State.composed_read hw (.inl (hstart ▸ hlt)) hx
      (show s.tfa.toNat + k < s.par.h0 by omega) hj
    rwa [srcRow_scrollArea hk, hstart] at this
  constructor
  · simpa [Nat.mod_eq_of_lt hlt] using hread 0 (by omega)
  · have hlast := hread (s.vsa.toNat - 1) (by omega)
    rwa [← Nat.add_sub_assoc (by omega),
      show s.vsa.toNat - 1 + o.toNat = o.toNat + s.vsa.toNat - 1 by omega] at hlast

end Sys2Proof.Machine
end

section
/-! Proofs of family 45: the native transform table and the point map it inverts (spec 45). -/

namespace Sys2Proof.Machine

/-! ### Samples and their truncation (45 R220, R225) -/

@[simp] theorem trunc16_sampleOf (x : Half) : trunc16 (sampleOf x) = x := BitVec.ofInt_toInt

@[simp] theorem trunc16_natCast (n : Nat) : trunc16 (n : Int) = BitVec.ofNat 16 n :=
  BitVec.ofInt_natCast ..

theorem trunc16_sub (i j : Int) : trunc16 (i - j) = trunc16 i - trunc16 j := Int.cast_sub ..

/-- A coordinate, reversed or not, is truncated alike for two samples that are truncated alike. -/
theorem trunc16_reverse_congr (rev : Bool) (k : Nat) {u v : Int} (h : trunc16 u = trunc16 v) :
    trunc16 (if rev then (k : Int) - 1 - u else u) =
      trunc16 (if rev then (k : Int) - 1 - v else v) := by
  cases rev with
  | false => exact h
  | true => simp only [if_true, trunc16_sub, h]

/-- The truncation of a transformed point depends on the truncations of the sample alone. -/
theorem trunc16_applyTransform_congr (lw lh : Nat) (xf : BitVec 3) {x y x' y' : Int}
    (hx : trunc16 x = trunc16 x') (hy : trunc16 y = trunc16 y') :
    trunc16 (applyTransform lw lh xf x y).1 = trunc16 (applyTransform lw lh xf x' y').1 ∧
      trunc16 (applyTransform lw lh xf x y).2 = trunc16 (applyTransform lw lh xf x' y').2 := by
  unfold applyTransform
  cases xfSwap xf with
  | false => exact ⟨trunc16_reverse_congr _ lw hx, trunc16_reverse_congr _ lh hy⟩
  | true => exact ⟨trunc16_reverse_congr _ lw hy, trunc16_reverse_congr _ lh hx⟩

/-- The sign a sample is read with is lost in the truncation: a coordinate from 32768 on is
transformed like the number its bits write. -/
theorem trunc16_applyTransform_sampleOf (lw lh : Nat) (xf : BitVec 3) (x y : Half) :
    trunc16 (applyTransform lw lh xf (sampleOf x) (sampleOf y)).1 =
        trunc16 (applyTransform lw lh xf x.toNat y.toNat).1 ∧
      trunc16 (applyTransform lw lh xf (sampleOf x) (sampleOf y)).2 =
        trunc16 (applyTransform lw lh xf x.toNat y.toNat).2 :=
  trunc16_applyTransform_congr lw lh xf (by simp) (by simp)

/-! ### The native table (45 R226) -/

/-- The native table `[0, 5, 3, 6]`, one code per rotation. -/
def nativeTable : Vector (BitVec 3) 4 := #v[0b000#3, 0b101#3, 0b011#3, 0b110#3]

/-- The native table swaps at the odd rotations. -/
theorem xfSwap_nativeTable (r : Rot) :
    xfSwap nativeTable[r.index.val] = decide (r = .r90 ∨ r = .r270) := by
  cases r <;> decide

/-- The native table reverses x against the logical width at 180 and 270 degrees. -/
theorem xfRevX_nativeTable (r : Rot) :
    xfRevX nativeTable[r.index.val] = decide (r = .r180 ∨ r = .r270) := by
  cases r <;> decide

/-- The native table reverses y against the logical height at 90 and 180 degrees. -/
theorem xfRevY_nativeTable (r : Rot) :
    xfRevY nativeTable[r.index.val] = decide (r = .r90 ∨ r = .r180) := by
  cases r <;> decide

/-- The native code of a rotation, applied over the integers, is the inverse point map: no reversal
goes below 0 on the panel. -/
theorem applyTransform_nativeTable (p : Params) (r : Rot) {x y : Nat} (hx : x < p.w0)
    (hy : y < p.h0) :
    applyTransform (logicalWidth p r) (logicalHeight p r) nativeTable[r.index.val] x y =
      (((toLogical p r (x, y)).1 : Int), ((toLogical p r (x, y)).2 : Int)) := by
  rw [applyTransform, xfSwap_nativeTable, xfRevX_nativeTable, xfRevY_nativeTable]
  cases r with
  | r0 => rfl
  | r90 => exact Prod.ext rfl (intCast_sub_one_sub hx).symm
  | r180 => exact Prod.ext (intCast_sub_one_sub hx).symm (intCast_sub_one_sub hy).symm
  | r270 => exact Prod.ext (intCast_sub_one_sub hy).symm rfl

/-! ### XFORM (45 R225) -/

theorem exec_xform (dev : BitVec 4) (x y : Half) (s : State) :
    exec (.xform dev x y) s = execXform dev x y s := rfl

theorem execXform_of_registered {dev : BitVec 4} {s : State} {e : Device}
    (h : s.registeredDevice dev = some e) (x y : Half) :
    execXform dev x y s = .next (s.setResult (pointWord
      (trunc16 (applyTransform s.lw s.lh e.xf[s.rot.index.val] (sampleOf x) (sampleOf y)).1)
      (trunc16
        (applyTransform s.lw s.lh e.xf[s.rot.index.val] (sampleOf x) (sampleOf y)).2))).complete := by
  simp only [execXform, h]

/-- With the native table, `RESULT` is the word of the logical point. -/
theorem execXform_of_nativeTable {dev : BitVec 4} {x y : Half} {s : State} {e : Device}
    (h : s.registeredDevice dev = some e) (hxf : e.xf = nativeTable)
    (hx : x.toNat < s.par.w0) (hy : y.toNat < s.par.h0) :
    execXform dev x y s = .next (s.setResult (pointWord
      (BitVec.ofNat 16 (toLogical s.par s.rot (x.toNat, y.toNat)).1)
      (BitVec.ofNat 16 (toLogical s.par s.rot (x.toNat, y.toNat)).2))).complete := by
  obtain ⟨hfst, hsnd⟩ :=
    trunc16_applyTransform_sampleOf s.lw s.lh nativeTable[s.rot.index.val] x y
  have hnative := applyTransform_nativeTable s.par s.rot hx hy
  rw [execXform_of_registered h, hxf, hfst, hsnd, State.lw, State.lh, hnative, trunc16_natCast,
    trunc16_natCast]

/-! ### The coordinates of a point word (43 R177, 45 R225) -/

theorem pointWord_toNat (x y : Half) : (pointWord x y).toNat = x.toNat * 65536 + y.toNat := by
  rw [pointWord, toNat_asWord, toNat_append_add]; rfl

theorem pointWord_high (x y : Half) : (pointWord x y).toNat / 65536 = x.toNat := by
  rw [pointWord_toNat]; omega

theorem pointWord_low (x y : Half) : (pointWord x y).toNat % 65536 = y.toNat := by
  rw [pointWord_toNat]; omega

/-- A logical point fits the two 16-bit halves of `RESULT`. -/
theorem toLogical_lt_65536 {p : Params} (hp : p.inRange) (r : Rot) {q : Nat × Nat}
    (hx : q.1 < p.w0) (hy : q.2 < p.h0) :
    (toLogical p r q).1 < 65536 ∧ (toLogical p r q).2 < 65536 := by
  obtain ⟨-, ⟨-, hw⟩, ⟨-, hh⟩, -⟩ := hp
  obtain ⟨hlx, hly⟩ := toLogical_lt (n := r) hx hy
  cases r <;> simp only [logicalWidth, logicalHeight] at hlx hly <;> omega

/-- Settles O54: XFORM with the native table leaves the word of the logical point, and both its
coordinates fit their halves. -/
theorem nativeTableInvertsPointMap : Obligations.NativeTableInvertsPointMap := by
  intro dev px py s hp hdev hvalid hxf hx hy
  have hreg : s.registeredDevice dev = some s.devices[dev.toNat] :=
    State.registeredDevice_eq_some.2 ⟨hdev, hvalid, rfl⟩
  obtain ⟨hlx, hly⟩ := toLogical_lt_65536 hp s.rot (q := (px.toNat, py.toNat)) hx hy
  refine ⟨_, (exec_xform dev px py s).trans (execXform_of_nativeTable hreg hxf hx hy), ?_, ?_⟩
  · rw [State.setResult_result, pointWord_high, BitVec.toNat_ofNat, Nat.mod_eq_of_lt hlx]
  · rw [State.setResult_result, pointWord_low, BitVec.toNat_ofNat, Nat.mod_eq_of_lt hly]

end Sys2Proof.Machine
end

section
/-! Proofs of family 60: how a command ends, and what a failing one leaves (spec 60). -/

namespace Sys2Proof.Machine

/-- The ways a command run in `s` can end (60 R242 to R244): it completes; it raises an error in the
state it began in; or it is a BUILD one of whose configuration checks fails, the only command that
writes more than the status before it raises (41 R114). -/
inductive Ends (s : State) : Instr → State → Prop where
  | completed (i : Instr) (u : State) : Ends s i u.complete
  | raised (i : Instr) (e : ErrCode) : Ends s i (s.raise e)
  | buildRejected {e : ErrCode} (he : s.configError = some e) : Ends s .build (s.killBus.raise e)

/-- Every answer of every command is one of these ends. -/
theorem exec_ends {i : Instr} {s t : State} (h : exec i s = .next t) : Ends s i t := by
  cases i with
  | pinsel => exact execPinsel_cases h ▸ .completed ..
  | build =>
    obtain ⟨_, rfl⟩ | ⟨_, _, he, rfl⟩ | ⟨_, _, rfl⟩ := execBuild_cases h
    exacts [.raised .., .buildRejected he, .completed ..]
  | tx =>
    obtain ⟨_, rfl⟩ | ⟨_, _, rfl⟩ | ⟨_, _, rfl⟩ := execTx_cases h
    exacts [.raised .., .raised .., .completed ..]
  | setrot =>
    obtain ⟨_, rfl⟩ | ⟨_, rfl⟩ := execSetrot_cases h
    exacts [.raised .., .completed ..]
  | getrot => exact execGetrot_cases h ▸ .completed ..
  | setwin =>
    obtain ⟨_, rfl⟩ | ⟨_, rfl⟩ := execSetwin_cases h
    exacts [.raised .., .completed ..]
  | setofs =>
    obtain ⟨_, rfl⟩ | ⟨_, _, _, rfl⟩ | ⟨_, _, _, rfl⟩ := execSetofs_cases h
    exacts [.completed .., .raised .., .completed ..]
  | getofs => exact execGetofs_cases h ▸ .completed ..
  | regdev =>
    obtain ⟨_, rfl⟩ | ⟨_, _, rfl⟩ := execRegdev_cases h
    exacts [.raised .., .completed ..]
  | setxf =>
    obtain ⟨_, rfl⟩ | ⟨_, _, rfl⟩ := execSetxf_cases h
    exacts [.raised .., .completed ..]
  | xform =>
    obtain ⟨_, rfl⟩ | ⟨_, _, rfl⟩ := execXform_cases h
    exacts [.raised .., .completed ..]
  | mappt =>
    obtain ⟨_, rfl⟩ | ⟨_, _, rfl⟩ := execMappt_cases h
    exacts [.raised .., .completed ..]
  | blit =>
    obtain ⟨_, rfl⟩ | ⟨_, _, _, rfl⟩ | ⟨_, _, _, rfl⟩ := execBlit_cases h
    exacts [.raised .., .raised .., .completed ..]
  | compose => exact execCompose_cases h ▸ .completed ..

/-- The configuration checks of BUILD never report `FATAL`, which tells a BUILD rejected by one of
them from a BUILD on a dead bus (41 R113, R114). -/
theorem State.configError_ne_fatal {s : State} : s.configError ≠ some .fatal := by
  intro h
  obtain h | h | h | h := State.configError_cases h <;> cases h

/-- Settles O13: of the three ends, completing leaves no error and a rejected BUILD does not end with
`FATAL`; what remains is an error raised in the old state. -/
theorem failingCommandIsAllOrNothing : Obligations.FailingCommandIsAllOrNothing := by
  intro i s t h herr hbuild
  cases exec_ends h with
  | completed _ u => exact absurd u.complete_lastErr herr
  | raised _ e => rfl
  | buildRejected he =>
    obtain rfl : _ = ErrCode.fatal := hbuild rfl
    exact absurd he State.configError_ne_fatal

end Sys2Proof.Machine
end

section
/-! Proofs of family 30: framing, the decoder and the encoder (spec 30). -/

namespace Sys2Proof

/-! ### Fields of a word as numbers (00 R9) -/

theorem toNat_extractLsb'_eq (w : Word) (lo len : Nat) :
    (w.extractLsb' lo len).toNat = w.toNat / 2 ^ lo % 2 ^ len := by
  rw [BitVec.extractLsb'_toNat, Nat.shiftRight_eq_div_pow]

theorem opcode_toNat (w : Word) : (opcode w).toNat = Spec.op w := by
  have := w.isLt
  rw [opcode, toNat_extractLsb'_eq, Spec.op]
  omega

theorem op_lt (w : Word) : Spec.op w < 16 := by rw [← opcode_toNat]; exact (opcode w).isLt

theorem extractLsb'_ne_zero_iff (w : Word) (lo len : Nat) :
    w.extractLsb' lo len ≠ BitVec.ofNat len 0 ↔ w.toNat / 2 ^ lo % 2 ^ len ≠ 0 := by
  rw [Ne, ← BitVec.toNat_inj, toNat_extractLsb'_eq, BitVec.toNat_ofNat, Nat.zero_mod]

theorem getLsbD_eq_true_iff (w : Word) (k : Nat) :
    w.getLsbD k = true ↔ w.toNat / 2 ^ k % 2 = 1 := by
  rw [← BitVec.testBit_toNat, Nat.testBit_eq_decide_div_mod_eq, decide_eq_true_iff]

theorem lenField_toNat (w : Word) : (lenField w).toNat = w.toNat % 65536 := by
  rw [lenField, toNat_extractLsb'_eq, Nat.pow_zero, Nat.div_one]; rfl

/-! ### The length of a command (30 R84) -/

theorem commandLength_blit {w0 w1 w2 w3 : Word} {ops : List Word} (h : Spec.op w0 = 0xD) :
    commandLength (w0 :: w1 :: w2 :: w3 :: ops) = some (4 + payloadWords w3.toNat) := by
  simp only [commandLength, opcode_toNat, h]

theorem commandLength_of_ne_blit {w0 : Word} (ops : List Word) (h : Spec.op w0 ≠ 0xD) :
    commandLength (w0 :: ops) = some (Spec.lengthOf w0 0) := by
  have hlt := op_lt w0
  simp only [commandLength, opcode_toNat, Spec.lengthOf, lenField_toNat, payloadWords]
  split <;> simp_all

theorem commandLength_four (w0 w1 w2 w3 : Word) (ops : List Word) :
    commandLength (w0 :: w1 :: w2 :: w3 :: ops) = some (Spec.lengthOf w0 w3) := by
  by_cases h : Spec.op w0 = 0xD
  · rw [commandLength_blit h, Spec.lengthOf, h]; rfl
  · rw [commandLength_of_ne_blit _ h]; simp only [Spec.lengthOf, h, if_false]

/-- Settles O5: one equation for BLIT, one for every other opcode. -/
theorem commandLengthByOpcode : Obligations.CommandLengthByOpcode :=
  ⟨commandLength_four, fun _ ops h => commandLength_of_ne_blit ops h⟩

/-- The length rule at any list that holds word 3 where the opcode is BLIT's. -/
theorem commandLength_eq_lengthOf {w0 : Word} {ops : List Word}
    (h : Spec.op w0 = 0xD → 3 ≤ ops.length) :
    commandLength (w0 :: ops) = some (Spec.lengthOf w0 (ops.getD 2 0)) := by
  by_cases hb : Spec.op w0 = 0xD
  · match ops, h hb with
    | w1 :: w2 :: w3 :: ops, _ => exact commandLength_four w0 w1 w2 w3 ops
  · rw [commandLength_of_ne_blit _ hb]; simp only [Spec.lengthOf, hb, if_false]

/-! ### The decoder by opcode (30 R83) -/

section Arms

variable {w0 : Word} (ops : List Word)

theorem decodeCommand_pinsel (h : Spec.op w0 = 0x1) :
    decodeCommand (w0 :: ops) = decodePinsel w0 := by simp only [decodeCommand, opcode_toNat, h]

theorem decodeCommand_build (h : Spec.op w0 = 0x2) :
    decodeCommand (w0 :: ops) = decodeBare w0 .build := by
  simp only [decodeCommand, opcode_toNat, h]

theorem decodeCommand_tx (h : Spec.op w0 = 0x3) :
    decodeCommand (w0 :: ops) = decodeTx w0 ops := by simp only [decodeCommand, opcode_toNat, h]

theorem decodeCommand_setrot (h : Spec.op w0 = 0x4) :
    decodeCommand (w0 :: ops) = decodeSetrot w0 := by simp only [decodeCommand, opcode_toNat, h]

theorem decodeCommand_getrot (h : Spec.op w0 = 0x5) :
    decodeCommand (w0 :: ops) = decodeBare w0 .getrot := by
  simp only [decodeCommand, opcode_toNat, h]

theorem decodeCommand_setwin (h : Spec.op w0 = 0x6) :
    decodeCommand (w0 :: ops) = decodeSetwin w0 ops := by simp only [decodeCommand, opcode_toNat, h]

theorem decodeCommand_setofs (h : Spec.op w0 = 0x7) :
    decodeCommand (w0 :: ops) = decodeSetofs w0 := by simp only [decodeCommand, opcode_toNat, h]

theorem decodeCommand_getofs (h : Spec.op w0 = 0x8) :
    decodeCommand (w0 :: ops) = decodeBare w0 .getofs := by
  simp only [decodeCommand, opcode_toNat, h]

theorem decodeCommand_regdev (h : Spec.op w0 = 0x9) :
    decodeCommand (w0 :: ops) = decodeRegdev w0 := by simp only [decodeCommand, opcode_toNat, h]

theorem decodeCommand_setxf (h : Spec.op w0 = 0xA) :
    decodeCommand (w0 :: ops) = decodeSetxf w0 := by simp only [decodeCommand, opcode_toNat, h]

theorem decodeCommand_xform (h : Spec.op w0 = 0xB) :
    decodeCommand (w0 :: ops) = decodeXform w0 ops := by simp only [decodeCommand, opcode_toNat, h]

theorem decodeCommand_mappt (h : Spec.op w0 = 0xC) :
    decodeCommand (w0 :: ops) = decodeMappt w0 ops := by simp only [decodeCommand, opcode_toNat, h]

theorem decodeCommand_blit (h : Spec.op w0 = 0xD) :
    decodeCommand (w0 :: ops) = decodeBlit w0 ops := by simp only [decodeCommand, opcode_toNat, h]

theorem decodeCommand_compose (h : Spec.op w0 = 0xE) :
    decodeCommand (w0 :: ops) = decodeBare w0 .compose := by
  simp only [decodeCommand, opcode_toNat, h]

theorem decodeCommand_reserved (h : Spec.op w0 = 0 ∨ Spec.op w0 = 15) :
    decodeCommand (w0 :: ops) = .error .reservedOpcode := by
  obtain h | h := h <;> simp only [decodeCommand, opcode_toNat, h]

end Arms

/-! ### The words of an encoding (30 R81, R83) -/

/-- The first word of every encoding has the opcode of its row, as `Spec.op` reads it. -/
theorem encode_op (i : Instr) :
    ∃ (w0 : Word) (ops : List Word), encode i = w0 :: ops ∧
      Spec.op w0 = Laws.OpcodeOf.column i := by
  have h : Laws.OpcodeOf.Statement i := by
    cases i with
    | pinsel role pol pin => exact Laws.OpcodeOf.pinsel role pol pin
    | build => exact Laws.OpcodeOf.build
    | tx cmd data => exact Laws.OpcodeOf.tx cmd data
    | setrot imm => exact Laws.OpcodeOf.setrot imm
    | getrot => exact Laws.OpcodeOf.getrot
    | setwin tfa vsa bfa => exact Laws.OpcodeOf.setwin tfa vsa bfa
    | setofs ofs => exact Laws.OpcodeOf.setofs ofs
    | getofs => exact Laws.OpcodeOf.getofs
    | regdev cap t0 t1 t2 t3 => exact Laws.OpcodeOf.regdev cap t0 t1 t2 t3
    | setxf dev idx xf => exact Laws.OpcodeOf.setxf dev idx xf
    | xform dev x y => exact Laws.OpcodeOf.xform dev x y
    | mappt lx ly => exact Laws.OpcodeOf.mappt lx ly
    | blit bx bY bw bh bytes => exact Laws.OpcodeOf.blit bx bY bw bh bytes
    | compose => exact Laws.OpcodeOf.compose
  simpa only [Laws.OpcodeOf.Statement, opcode_toNat] using h

/-- An encoding is its fixed words and then the payload, packed (30 R83). -/
theorem encode_length (i : Instr) :
    (encode i).length = Spec.fixedWords i + payloadWords (Spec.payloadOf i).length := by
  cases i <;>
    simp [encode, Spec.fixedWords, Spec.payloadOf, packBytes_length, payloadWords]
  all_goals omega

/-- The word of format `T` (30 R81). -/
def txWord (cmd : Option Byte) (data : Option (List Byte)) : Word :=
  asWord (3#4 ++ BitVec.ofBool cmd.isSome ++ BitVec.ofBool data.isSome ++ 0#2 ++ cmd.getD 0 ++
    BitVec.ofNat 16 (data.getD []).length)

theorem encode_tx (cmd : Option Byte) (data : Option (List Byte)) :
    encode (.tx cmd data) = txWord cmd data :: packBytes (data.getD []) := rfl

theorem txLengthOk_iff {data : Option (List Byte)} :
    txLengthOk data = true ↔ (data.getD []).length < 65536 := decide_eq_true_iff

theorem blitLengthOk_iff {bytes : List Byte} :
    blitLengthOk bytes = true ↔ bytes.length < 4294967296 := decide_eq_true_iff

/-- `LEN` of an encoded TX is the number of its data bytes. -/
theorem lenField_txWord (cmd : Option Byte) {data : Option (List Byte)}
    (h : txLengthOk data = true) : (lenField (txWord cmd data)).toNat = (data.getD []).length := by
  rw [txLengthOk_iff] at h
  simp (disch := omega) only [lenField, txWord, extractLsb'_asWord, extractLsb'_append_low,
    BitVec.extractLsb'_eq_self, BitVec.toNat_ofNat, Nat.mod_eq_of_lt h, -Nat.reduceAdd]

/-- The words of an encoding frame themselves. -/
theorem commandLength_encode {i : Instr} (h : i.wellFormed = true) :
    commandLength (encode i) = some (encode i).length := by
  obtain ⟨w0, ops, hw, hop⟩ := encode_op i
  have hlen := encode_length i
  rw [hw] at hlen ⊢
  have h3 : Spec.op w0 = 0xD → 3 ≤ ops.length := by
    intro hb
    cases i <;> simp_all [Laws.OpcodeOf.column, Spec.fixedWords]
    omega
  rw [commandLength_eq_lengthOf h3, hlen, Spec.lengthOf, hop]
  cases i with
  | tx cmd data =>
    obtain ⟨rfl, rfl⟩ := List.cons.inj hw
    rw [← lenField_toNat]
    change some (1 + ((lenField (txWord cmd data)).toNat + 3) / 4) = _
    rw [lenField_txWord cmd h]; rfl
  | blit bx bY bw bh bytes =>
    obtain ⟨rfl, rfl⟩ := List.cons.inj hw
    have := blitLengthOk_iff.1 h
    simp [Laws.OpcodeOf.column, Spec.fixedWords, Spec.payloadOf, payloadWords,
      Nat.mod_eq_of_lt this]
  | _ => simp [Laws.OpcodeOf.column, Spec.fixedWords, Spec.payloadOf, payloadWords]

/-! ### Encodings decode (30 R81, R82) -/

theorem decodeBare_word (k : BitVec 4) (j : Instr) : decodeBare (asWord (k ++ 0#28)) j = .ok j := by
  rw [decodeBare, extractLsb'_asWord, extractLsb'_append_low _ _ _ le_rfl]
  simp

theorem decodePinsel_word {role : Role} {pol : Bool} (pin : Byte)
    (h : role.polarityOk pol = true) :
    decodePinsel (asWord (1#4 ++ encodeRole role ++ BitVec.ofBool pol ++ 0#15 ++ pin)) =
      .ok (.pinsel role pol pin) := by
  simp (disch := omega) only [decodePinsel, extractLsb'_asWord, getLsbD_asWord,
    extractLsb'_append_low, extractLsb'_append_high, getLsbD_append_low, getLsbD_append_high,
    -Nat.reduceAdd, -Nat.reduceSub]
  simp [decodeRole_encodeRole, h]

theorem decodeTx_word (cmd : Option Byte) {data : Option (List Byte)}
    (h : txLengthOk data = true) :
    decodeTx (txWord cmd data) (packBytes (data.getD [])) = .ok (.tx cmd data) := by
  have hlen := lenField_txWord cmd h
  have hzero : lenField (txWord cmd data) = 0#16 ↔ (data.getD []).length = 0 := by
    rw [← hlen, ← BitVec.toNat_inj]; rfl
  rw [decodeTx, hlen, payload_packBytes]
  simp (disch := omega) only [txWord, extractLsb'_asWord, getLsbD_asWord,
    extractLsb'_append_low, extractLsb'_append_high, getLsbD_append_low, getLsbD_append_high,
    -Nat.reduceAdd, -Nat.reduceSub] at hzero ⊢
  cases cmd <;> cases data <;> simp_all

theorem decodeSetrot_word (imm : BitVec 28) :
    decodeSetrot (asWord (4#4 ++ imm)) = .ok (.setrot imm) := by
  rw [decodeSetrot, extractLsb'_asWord, extractLsb'_append_low _ _ _ le_rfl]
  simp

/-- The two 16-bit fields of a word. -/
theorem extractLsb'_halves (x y : Half) :
    (asWord (x ++ y)).extractLsb' 16 16 = x ∧ (asWord (x ++ y)).extractLsb' 0 16 = y := by
  rw [extractLsb'_asWord, extractLsb'_asWord, extractLsb'_append_low _ _ _ le_rfl,
    extractLsb'_append_high _ _ _ le_rfl]
  simp

theorem decodeSetwin_word (tfa vsa bfa : Half) :
    decodeSetwin (asWord (6#4 ++ 0#12 ++ tfa)) [asWord (vsa ++ bfa)] =
      .ok (.setwin tfa vsa bfa) := by
  obtain ⟨hvsa, hbfa⟩ := extractLsb'_halves vsa bfa
  simp (disch := omega) only [decodeSetwin, hvsa, hbfa, extractLsb'_asWord,
    extractLsb'_append_low, extractLsb'_append_high, -Nat.reduceAdd, -Nat.reduceSub]
  simp

theorem decodeSetofs_word (ofs : Option Half) :
    decodeSetofs (asWord (7#4 ++ BitVec.ofBool ofs.isNone ++ 0#11 ++ ofs.getD 0)) =
      .ok (.setofs ofs) := by
  simp (disch := omega) only [decodeSetofs, extractLsb'_asWord, getLsbD_asWord,
    extractLsb'_append_low, extractLsb'_append_high, getLsbD_append_high,
    -Nat.reduceAdd, -Nat.reduceSub]
  cases ofs <;> simp

theorem decodeRegdev_word (cap : Capability) (t0 t1 t2 t3 : BitVec 3) :
    decodeRegdev (asWord (9#4 ++ 0#15 ++ encodeCapability cap ++ t3 ++ t2 ++ t1 ++ t0)) =
      .ok (.regdev cap t0 t1 t2 t3) := by
  simp (disch := omega) only [decodeRegdev, extractLsb'_asWord, getLsbD_asWord,
    extractLsb'_append_low, extractLsb'_append_high, getLsbD_append_low, getLsbD_append_high,
    -Nat.reduceAdd, -Nat.reduceSub]
  simpa using decodeCapability_encodeCapability cap

theorem decodeSetxf_word (dev : BitVec 4) (idx : BitVec 2) (xf : BitVec 3) :
    decodeSetxf (asWord (10#4 ++ 0#8 ++ dev ++ 0#10 ++ idx ++ 0#1 ++ xf)) =
      .ok (.setxf dev idx xf) := by
  simp (disch := omega) only [decodeSetxf, extractLsb'_asWord, extractLsb'_append_low,
    extractLsb'_append_high, -Nat.reduceAdd, -Nat.reduceSub]
  simp

theorem decodeXform_word (dev : BitVec 4) (x y : Half) :
    decodeXform (asWord (11#4 ++ 0#8 ++ dev ++ 0#16)) [asWord (x ++ y)] =
      .ok (.xform dev x y) := by
  obtain ⟨hx, hy⟩ := extractLsb'_halves x y
  simp (disch := omega) only [decodeXform, hx, hy, extractLsb'_asWord, extractLsb'_append_low,
    extractLsb'_append_high, -Nat.reduceAdd, -Nat.reduceSub]
  simp

theorem decodeMappt_word (lx ly : Half) :
    decodeMappt (asWord (12#4 ++ 0#28)) [asWord (lx ++ ly)] = .ok (.mappt lx ly) := by
  obtain ⟨hx, hy⟩ := extractLsb'_halves lx ly
  rw [decodeMappt, hx, hy]
  exact if_neg (by decide)

theorem decodeBlit_word (bx bY bw bh : Half) {bytes : List Byte}
    (h : blitLengthOk bytes = true) :
    decodeBlit (asWord (13#4 ++ 0#28)) (asWord (bx ++ bY) :: asWord (bw ++ bh) ::
      BitVec.ofNat 32 bytes.length :: packBytes bytes) = .ok (.blit bx bY bw bh bytes) := by
  obtain ⟨hbx, hbY⟩ := extractLsb'_halves bx bY
  obtain ⟨hbw, hbh⟩ := extractLsb'_halves bw bh
  have hlen : (BitVec.ofNat 32 bytes.length).toNat = bytes.length :=
    Nat.mod_eq_of_lt (blitLengthOk_iff.1 h)
  rw [decodeBlit, hbx, hbY, hbw, hbh, hlen, payload_packBytes]
  exact if_neg (by decide)

/-- The decoder undoes the encoder: the opcode of the first word leads to the format's decoder. -/
theorem decodeCommand_encode {i : Instr} (h : i.wellFormed = true) :
    decodeCommand (encode i) = .ok i := by
  have hop : ∀ {w0 : Word} {ops : List Word}, encode i = w0 :: ops →
      Spec.op w0 = Laws.OpcodeOf.column i := by
    intro w0 ops hw
    obtain ⟨w, ps, hw', hop⟩ := encode_op i
    obtain ⟨rfl, -⟩ := List.cons.inj (hw.symm.trans hw')
    exact hop
  cases i with
  | pinsel role pol pin => exact (decodeCommand_pinsel _ (hop rfl)).trans (decodePinsel_word pin h)
  | build => exact (decodeCommand_build _ (hop rfl)).trans (decodeBare_word ..)
  | tx cmd data => exact (decodeCommand_tx _ (hop rfl)).trans (decodeTx_word cmd h)
  | setrot imm => exact (decodeCommand_setrot _ (hop rfl)).trans (decodeSetrot_word imm)
  | getrot => exact (decodeCommand_getrot _ (hop rfl)).trans (decodeBare_word ..)
  | setwin tfa vsa bfa =>
    exact (decodeCommand_setwin _ (hop rfl)).trans (decodeSetwin_word tfa vsa bfa)
  | setofs ofs => exact (decodeCommand_setofs _ (hop rfl)).trans (decodeSetofs_word ofs)
  | getofs => exact (decodeCommand_getofs _ (hop rfl)).trans (decodeBare_word ..)
  | regdev cap t0 t1 t2 t3 =>
    exact (decodeCommand_regdev _ (hop rfl)).trans (decodeRegdev_word cap t0 t1 t2 t3)
  | setxf dev idx xf => exact (decodeCommand_setxf _ (hop rfl)).trans (decodeSetxf_word dev idx xf)
  | xform dev x y => exact (decodeCommand_xform _ (hop rfl)).trans (decodeXform_word dev x y)
  | mappt lx ly => exact (decodeCommand_mappt _ (hop rfl)).trans (decodeMappt_word lx ly)
  | blit bx bY bw bh bytes =>
    exact (decodeCommand_blit _ (hop rfl)).trans (decodeBlit_word bx bY bw bh h)
  | compose => exact (decodeCommand_compose _ (hop rfl)).trans (decodeBare_word ..)

/-- Settles O1: the length of an encoding stands in its own first words, so later words do not
change how it is framed, and each format's fields are read back from where they were put. -/
theorem encodeThenDecode : Obligations.EncodeThenDecode := by
  intro i rest h
  refine ⟨Machine.frameCommand_eq_command.2 ⟨(encode i).length, ?_, ?_, ?_⟩,
    decodeCommand_encode h⟩
  · exact commandLength_append rest (commandLength_encode h)
  · simp
  · simp

/-! ### Decoded commands encode again (30 R86) -/

/-- What decoding the words `fixed` and then payload words to `i` makes of them: `i` is well-formed,
and its own encoding is `fixed` and then its payload `bytes`, packed. -/
structure EncodedBy (i : Instr) (fixed : List Word) (bytes : List Byte) : Prop where
  wellFormed : i.wellFormed = true
  encode_eq : encode i = fixed ++ packBytes bytes
  fixedWords_eq : Spec.fixedWords i = fixed.length
  payloadOf_eq : Spec.payloadOf i = bytes

/-- A word of no field but the opcode. -/
theorem asWord_bare {w0 : Word} {k : BitVec 4} (hop : Spec.op w0 = k.toNat)
    (h : w0.extractLsb' 0 28 = 0#28) : asWord (k ++ 0#28) = w0 := by
  rw [← opcode_toNat, BitVec.toNat_inj] at hop
  exact asWord_eq (extractLsb'_join hop h)

/-- A word of two 16-bit fields. -/
theorem asWord_halves (w : Word) : asWord (w.extractLsb' 16 16 ++ w.extractLsb' 0 16) = w :=
  asWord_eq (extractLsb'_join rfl rfl)

theorem decodeBare_eq_ok {w0 : Word} {j i : Instr} :
    decodeBare w0 j = .ok i ↔ w0.extractLsb' 0 28 = 0#28 ∧ i = j := by
  unfold decodeBare
  split_ifs with h
  · simp [h]
  · simp [not_not.1 h, eq_comm]

theorem decodePinsel_encodedBy {w0 : Word} {i : Instr} (hop : Spec.op w0 = 1)
    (h : decodePinsel w0 = .ok i) : EncodedBy i [w0] [] := by
  unfold decodePinsel at h
  split_ifs at h with hzero
  split at h
  · cases h
  · rename_i role hrole
    split_ifs at h with hpol
    obtain rfl := Except.ok.inj h
    refine ⟨hpol, ?_, rfl, rfl⟩
    exact congrArg (· :: []) (asWord_eq (extractLsb'_join (extractLsb'_join (extractLsb'_join
      (extractLsb'_join (extractLsb'_opcode ((opcode_toNat w0).trans hop))
        (encodeRole_of_decodeRole hrole).symm) (extractLsb'_bit w0 23)) (not_not.1 hzero)) rfl))

theorem decodeSetrot_encodedBy {w0 : Word} {i : Instr} (hop : Spec.op w0 = 4)
    (h : decodeSetrot w0 = .ok i) : EncodedBy i [w0] [] := by
  obtain rfl := Except.ok.inj h
  exact ⟨rfl, congrArg (· :: []) (asWord_eq (extractLsb'_join
    (extractLsb'_opcode ((opcode_toNat w0).trans hop)) rfl)), rfl, rfl⟩

theorem decodeSetwin_encodedBy {w0 w1 : Word} {i : Instr} (hop : Spec.op w0 = 6)
    (h : decodeSetwin w0 [w1] = .ok i) : EncodedBy i [w0, w1] [] := by
  unfold decodeSetwin at h
  split_ifs at h with hzero
  obtain rfl := Except.ok.inj h
  have hw0 : asWord (6#4 ++ 0#12 ++ w0.extractLsb' 0 16) = w0 :=
    asWord_eq (extractLsb'_join (extractLsb'_join
      (extractLsb'_opcode ((opcode_toNat w0).trans hop)) (not_not.1 hzero)) rfl)
  exact ⟨rfl, congrArg₂ (· :: · :: []) hw0 (asWord_halves w1), rfl, rfl⟩

theorem decodeSetofs_encodedBy {w0 : Word} {i : Instr} (hop : Spec.op w0 = 7)
    (h : decodeSetofs w0 = .ok i) : EncodedBy i [w0] [] := by
  have hfields : ∀ b, w0.getLsbD 27 = b → w0.extractLsb' 16 11 = 0#11 →
      asWord (7#4 ++ BitVec.ofBool b ++ 0#11 ++ w0.extractLsb' 0 16) = w0 := fun b hb hzero =>
    asWord_eq (extractLsb'_join (extractLsb'_join (extractLsb'_join
      (extractLsb'_opcode ((opcode_toNat w0).trans hop)) (hb ▸ extractLsb'_bit w0 27)) hzero) rfl)
  unfold decodeSetofs at h
  split_ifs at h with hzero hdis hofs
  · obtain rfl := Except.ok.inj h
    have hw := hfields true hdis (not_not.1 hzero)
    rw [not_not.1 hofs] at hw
    exact ⟨rfl, congrArg (· :: []) hw, rfl, rfl⟩
  · obtain rfl := Except.ok.inj h
    have hw := hfields false (by simpa using hdis) (not_not.1 hzero)
    exact ⟨rfl, congrArg (· :: []) hw, rfl, rfl⟩

theorem decodeRegdev_encodedBy {w0 : Word} {i : Instr} (hop : Spec.op w0 = 9)
    (h : decodeRegdev w0 = .ok i) : EncodedBy i [w0] [] := by
  unfold decodeRegdev at h
  split_ifs at h with hzero
  obtain rfl := Except.ok.inj h
  exact ⟨rfl, congrArg (· :: []) (asWord_eq (extractLsb'_join (extractLsb'_join (extractLsb'_join
    (extractLsb'_join (extractLsb'_join (extractLsb'_join
      (extractLsb'_opcode ((opcode_toNat w0).trans hop)) (not_not.1 hzero))
      ((extractLsb'_bit w0 12).trans (encodeCapability_decodeCapability _).symm)) rfl) rfl) rfl)
        rfl)), rfl, rfl⟩

theorem decodeSetxf_encodedBy {w0 : Word} {i : Instr} (hop : Spec.op w0 = 10)
    (h : decodeSetxf w0 = .ok i) : EncodedBy i [w0] [] := by
  unfold decodeSetxf at h
  split_ifs at h with hzero
  obtain rfl := Except.ok.inj h
  push Not at hzero
  obtain ⟨hz20, hz6, hz3⟩ := hzero
  exact ⟨rfl, congrArg (· :: []) (asWord_eq (extractLsb'_join (extractLsb'_join (extractLsb'_join
    (extractLsb'_join (extractLsb'_join (extractLsb'_join
      (extractLsb'_opcode ((opcode_toNat w0).trans hop)) hz20) rfl) hz6) rfl) hz3) rfl)), rfl, rfl⟩

theorem decodeXform_encodedBy {w0 w1 : Word} {i : Instr} (hop : Spec.op w0 = 11)
    (h : decodeXform w0 [w1] = .ok i) : EncodedBy i [w0, w1] [] := by
  unfold decodeXform at h
  split_ifs at h with hzero
  obtain rfl := Except.ok.inj h
  push Not at hzero
  obtain ⟨hz20, hz0⟩ := hzero
  have hw0 : asWord (11#4 ++ 0#8 ++ w0.extractLsb' 16 4 ++ 0#16) = w0 :=
    asWord_eq (extractLsb'_join (extractLsb'_join (extractLsb'_join
      (extractLsb'_opcode ((opcode_toNat w0).trans hop)) hz20) rfl) hz0)
  exact ⟨rfl, congrArg₂ (· :: · :: []) hw0 (asWord_halves w1), rfl, rfl⟩

theorem decodeMappt_encodedBy {w0 w1 : Word} {i : Instr} (hop : Spec.op w0 = 12)
    (h : decodeMappt w0 [w1] = .ok i) : EncodedBy i [w0, w1] [] := by
  unfold decodeMappt at h
  split_ifs at h with hzero
  obtain rfl := Except.ok.inj h
  have hw0 := asWord_bare (k := 12#4) hop (not_not.1 hzero)
  exact ⟨rfl, congrArg₂ (· :: · :: []) hw0 (asWord_halves w1), rfl, rfl⟩

/-- The payload bytes of a command as its payload words hold them: as many words as the bytes take,
the bytes their first ones (20 R54, 30 R84). -/
structure PayloadOf (ops : List Word) (bytes : List Byte) : Prop where
  words : ops.length = payloadWords bytes.length
  bytes_eq : bytes = (unpackBytes ops).take bytes.length

theorem PayloadOf.nil : PayloadOf [] [] := ⟨rfl, rfl⟩

/-- The payload that `payload` reads from as many words as its bytes take. -/
theorem payloadOf_of_payload {n : Nat} {ops : List Word} {bytes : List Byte}
    (hops : ops.length = payloadWords n) (h : payload n ops = .ok bytes) :
    bytes.length = n ∧ PayloadOf ops bytes := by
  obtain ⟨hle, rfl⟩ := payload_eq_ok.1 h
  have hlen : ((unpackBytes ops).take n).length = n := by simpa using hle
  exact ⟨hlen, hlen.symm ▸ hops, by rw [hlen]⟩

/-- Everything `decodeTx` accepts, and what it reads. -/
theorem decodeTx_eq_ok {w0 : Word} {ops : List Word} {i : Instr} :
    decodeTx w0 ops = .ok i ↔
      w0.extractLsb' 24 2 = 0#2 ∧ (w0.getLsbD 27 = false → w0.extractLsb' 16 8 = 0#8) ∧
        (w0.getLsbD 26 = false → lenField w0 = 0#16) ∧
        ∃ bytes, payload (lenField w0).toNat ops = .ok bytes ∧
          i = .tx (if w0.getLsbD 27 then some (w0.extractLsb' 16 8) else none)
            (if w0.getLsbD 26 then some bytes else none) := by
  unfold decodeTx
  split
  · simp_all
  split
  · simp_all
  split
  · simp_all
  cases hpay : payload (lenField w0).toNat ops with
  | error e => simp
  | ok bytes =>
    have hsym : ∀ j : Instr, Except.ok (ε := DecodeError) j = .ok i ↔ i = j :=
      fun j => ⟨fun h => (Except.ok.inj h).symm, fun h => h ▸ rfl⟩
    simp_all

/-- A word with the fields of format `T` is `txWord` of them. -/
theorem txWord_eq {w0 : Word} {cmd : Option Byte} {data : Option (List Byte)}
    (hop : Spec.op w0 = 3) (hc : cmd.isSome = w0.getLsbD 27) (hd : data.isSome = w0.getLsbD 26)
    (hz : w0.extractLsb' 24 2 = 0#2) (hcmd : cmd.getD 0 = w0.extractLsb' 16 8)
    (hlen : (data.getD []).length = (lenField w0).toNat) : txWord cmd data = w0 := by
  have hl : w0.extractLsb' 0 16 = BitVec.ofNat 16 (data.getD []).length := by
    rw [hlen, BitVec.ofNat_toNat, BitVec.setWidth_eq]; rfl
  exact asWord_eq (extractLsb'_join (extractLsb'_join (extractLsb'_join (extractLsb'_join
    (extractLsb'_join (extractLsb'_opcode ((opcode_toNat w0).trans hop))
      (hc ▸ extractLsb'_bit w0 27)) (hd ▸ extractLsb'_bit w0 26)) hz) hcmd.symm) hl)

theorem decodeTx_encodedBy {w0 : Word} {ops : List Word} {i : Instr} (hop : Spec.op w0 = 3)
    (hops : ops.length = payloadWords (lenField w0).toNat) (h : decodeTx w0 ops = .ok i) :
    ∃ bytes, EncodedBy i [w0] bytes ∧ PayloadOf ops bytes := by
  obtain ⟨hz, hcmd, hlen, bytes, hpay, rfl⟩ := decodeTx_eq_ok.1 h
  obtain ⟨hblen, hbytes⟩ := payloadOf_of_payload hops hpay
  have hdata : (if w0.getLsbD 26 then some bytes else none).getD [] = bytes := by
    split_ifs with h26
    · rfl
    · rw [hlen (by simpa using h26)] at hblen
      exact (List.length_eq_zero_iff.1 hblen).symm
  have hword : txWord (if w0.getLsbD 27 then some (w0.extractLsb' 16 8) else none)
      (if w0.getLsbD 26 then some bytes else none) = w0 := by
    refine txWord_eq hop (by split_ifs <;> simp_all) (by split_ifs <;> simp_all) hz ?_
      (hdata.symm ▸ hblen)
    split_ifs with h27
    · rfl
    · exact (hcmd (by simpa using h27)).symm
  refine ⟨bytes, ⟨?_, ?_, rfl, hdata⟩, hbytes⟩
  · exact txLengthOk_iff.2 (hdata.symm ▸ hblen ▸ (lenField w0).isLt)
  · rw [encode_tx, hword, hdata]; rfl

theorem decodeBlit_encodedBy {w0 w1 w2 w3 : Word} {ops : List Word} {i : Instr}
    (hop : Spec.op w0 = 13) (hops : ops.length = payloadWords w3.toNat)
    (h : decodeBlit w0 (w1 :: w2 :: w3 :: ops) = .ok i) :
    ∃ bytes, EncodedBy i [w0, w1, w2, w3] bytes ∧ PayloadOf ops bytes := by
  rw [decodeBlit] at h
  split_ifs at h with hzero
  cases hpay : payload w3.toNat ops with
  | error e => rw [hpay] at h; cases h
  | ok bytes =>
    rw [hpay] at h
    obtain ⟨hblen, hbytes⟩ := payloadOf_of_payload hops hpay
    obtain rfl := Except.ok.inj h
    have hw0 : asWord (13#4 ++ 0#28) = w0 := asWord_bare hop (not_not.1 hzero)
    have hw3 : BitVec.ofNat 32 bytes.length = w3 := by
      rw [hblen, BitVec.ofNat_toNat, BitVec.setWidth_eq]
    refine ⟨bytes, ⟨blitLengthOk_iff.2 (hblen ▸ w3.isLt), ?_, rfl, rfl⟩, hbytes⟩
    simp only [encode, hw0, hw3, asWord_halves]

/-! ### Complete commands (30 R84) -/

/-- A complete command of an opcode without payload has the words of its format. -/
theorem length_of_complete {w0 : Word} {ops : List Word} (hb : Spec.op w0 ≠ 0xD)
    (h : commandLength (w0 :: ops) = some (ops.length + 1)) :
    ops.length + 1 = Spec.lengthOf w0 0 := by
  rw [commandLength_of_ne_blit ops hb] at h
  exact (Option.some.inj h).symm

/-- A complete command of one word. -/
theorem eq_nil_of_complete {w0 : Word} {ops : List Word}
    (h1 : Spec.op w0 ∉ [0x3, 0x6, 0xB, 0xC, 0xD])
    (h : commandLength (w0 :: ops) = some (ops.length + 1)) : ops = [] := by
  simp only [List.mem_cons, List.not_mem_nil, or_false, not_or] at h1
  obtain ⟨h3, h6, hB, hC, hD⟩ := h1
  have := length_of_complete hD h
  simpa [Spec.lengthOf, h3, h6, hB, hC, hD] using this

/-- A complete command of two words. -/
theorem eq_singleton_of_complete {w0 : Word} {ops : List Word} (h2 : Spec.op w0 ∈ [0x6, 0xB, 0xC])
    (h : commandLength (w0 :: ops) = some (ops.length + 1)) : ∃ w1, ops = [w1] := by
  simp only [List.mem_cons, List.not_mem_nil, or_false] at h2
  have := length_of_complete (by omega) h
  rw [Spec.lengthOf, if_neg (by omega), if_pos h2] at this
  exact List.length_eq_one_iff.1 (by omega)

/-- A complete TX. -/
theorem length_of_complete_tx {w0 : Word} {ops : List Word} (h3 : Spec.op w0 = 3)
    (h : commandLength (w0 :: ops) = some (ops.length + 1)) :
    ops.length = payloadWords (lenField w0).toNat := by
  have := length_of_complete (by omega) h
  rw [Spec.lengthOf, if_pos h3, ← lenField_toNat] at this
  unfold payloadWords
  omega

/-- A complete BLIT. -/
theorem eq_cons_of_complete_blit {w0 : Word} {ops : List Word} (hD : Spec.op w0 = 0xD)
    (h : commandLength (w0 :: ops) = some (ops.length + 1)) :
    ∃ w1 w2 w3 ps, ops = w1 :: w2 :: w3 :: ps ∧ ps.length = payloadWords w3.toNat := by
  match ops, h with
  | w1 :: w2 :: w3 :: ps, h =>
    rw [commandLength_blit hD] at h
    have := Option.some.inj h
    simp only [List.length_cons] at this
    exact ⟨w1, w2, w3, ps, rfl, by omega⟩
  | [], h => simp [commandLength, opcode_toNat, hD] at h
  | [_], h => simp [commandLength, opcode_toNat, hD] at h
  | [_, _], h => simp [commandLength, opcode_toNat, hD] at h

theorem decodeBare_encodedBy {w0 : Word} {k : BitVec 4} {i j : Instr} (hop : Spec.op w0 = k.toNat)
    (hj : EncodedBy j [asWord (k ++ 0#28)] []) (h : decodeBare w0 j = .ok i) :
    EncodedBy i [w0] [] := by
  obtain ⟨hzero, rfl⟩ := decodeBare_eq_ok.1 h
  exact asWord_bare hop hzero ▸ hj

/-- What decoding a complete command makes of its words: fixed words and payload words, of which its
own encoding is made. -/
def Reencodes (ws : List Word) (i : Instr) : Prop :=
  ∃ fixed ops bytes, ws = fixed ++ ops ∧ EncodedBy i fixed bytes ∧ PayloadOf ops bytes

theorem Reencodes.of_fixed {ws : List Word} {i : Instr} (h : EncodedBy i ws []) : Reencodes ws i :=
  ⟨ws, [], [], (List.append_nil ws).symm, h, .nil⟩

theorem reencodes_one {w0 : Word} {ops : List Word} {i : Instr}
    (h1 : Spec.op w0 ∉ [0x3, 0x6, 0xB, 0xC, 0xD])
    (hl : commandLength (w0 :: ops) = some (ops.length + 1)) (h : EncodedBy i [w0] []) :
    Reencodes (w0 :: ops) i := by
  rw [eq_nil_of_complete h1 hl]
  exact .of_fixed h

/-- Every complete command that decodes is made of the words of its encoding. -/
theorem reencodes_of_decodeCommand {w0 : Word} {ops : List Word} {i : Instr}
    (hl : commandLength (w0 :: ops) = some (ops.length + 1))
    (h : decodeCommand (w0 :: ops) = .ok i) : Reencodes (w0 :: ops) i := by
  match hop : Spec.op w0, op_lt w0 with
  | 0, _ => rw [decodeCommand_reserved ops (.inl hop)] at h; cases h
  | 1, _ =>
    rw [decodeCommand_pinsel ops hop] at h
    exact reencodes_one (by simp [hop]) hl (decodePinsel_encodedBy hop h)
  | 2, _ =>
    rw [decodeCommand_build ops hop] at h
    exact reencodes_one (by simp [hop]) hl
      (decodeBare_encodedBy (k := 2#4) hop ⟨rfl, rfl, rfl, rfl⟩ h)
  | 3, _ =>
    rw [decodeCommand_tx ops hop] at h
    obtain ⟨bytes, henc, hpay⟩ := decodeTx_encodedBy hop (length_of_complete_tx hop hl) h
    exact ⟨[w0], ops, bytes, rfl, henc, hpay⟩
  | 4, _ =>
    rw [decodeCommand_setrot ops hop] at h
    exact reencodes_one (by simp [hop]) hl (decodeSetrot_encodedBy hop h)
  | 5, _ =>
    rw [decodeCommand_getrot ops hop] at h
    exact reencodes_one (by simp [hop]) hl
      (decodeBare_encodedBy (k := 5#4) hop ⟨rfl, rfl, rfl, rfl⟩ h)
  | 6, _ =>
    obtain ⟨w1, rfl⟩ := eq_singleton_of_complete (by simp [hop]) hl
    rw [decodeCommand_setwin _ hop] at h
    exact .of_fixed (decodeSetwin_encodedBy hop h)
  | 7, _ =>
    rw [decodeCommand_setofs ops hop] at h
    exact reencodes_one (by simp [hop]) hl (decodeSetofs_encodedBy hop h)
  | 8, _ =>
    rw [decodeCommand_getofs ops hop] at h
    exact reencodes_one (by simp [hop]) hl
      (decodeBare_encodedBy (k := 8#4) hop ⟨rfl, rfl, rfl, rfl⟩ h)
  | 9, _ =>
    rw [decodeCommand_regdev ops hop] at h
    exact reencodes_one (by simp [hop]) hl (decodeRegdev_encodedBy hop h)
  | 10, _ =>
    rw [decodeCommand_setxf ops hop] at h
    exact reencodes_one (by simp [hop]) hl (decodeSetxf_encodedBy hop h)
  | 11, _ =>
    obtain ⟨w1, rfl⟩ := eq_singleton_of_complete (by simp [hop]) hl
    rw [decodeCommand_xform _ hop] at h
    exact .of_fixed (decodeXform_encodedBy hop h)
  | 12, _ =>
    obtain ⟨w1, rfl⟩ := eq_singleton_of_complete (by simp [hop]) hl
    rw [decodeCommand_mappt _ hop] at h
    exact .of_fixed (decodeMappt_encodedBy hop h)
  | 13, _ =>
    obtain ⟨w1, w2, w3, ps, rfl, hlen⟩ := eq_cons_of_complete_blit hop hl
    rw [decodeCommand_blit _ hop] at h
    obtain ⟨bytes, henc, hpay⟩ := decodeBlit_encodedBy hop hlen h
    exact ⟨[w0, w1, w2, w3], ps, bytes, rfl, henc, hpay⟩
  | 14, _ =>
    rw [decodeCommand_compose ops hop] at h
    exact reencodes_one (by simp [hop]) hl
      (decodeBare_encodedBy (k := 14#4) hop ⟨rfl, rfl, rfl, rfl⟩ h)
  | 15, _ => rw [decodeCommand_reserved ops (.inr hop)] at h; cases h
  | n + 16, hn => omega

/-- Settles O2: the fixed words are the encoding's own, and the payload words hold the payload bytes
of as many words as the encoding packs them into. -/
theorem decodedCommandReencodes : Obligations.DecodedCommandReencodes := by
  intro ws i hl h
  match ws, hl, h with
  | w0 :: tail, hl, h =>
    obtain ⟨fixed, ops, bytes, hws, henc, hpay⟩ := reencodes_of_decodeCommand hl h
    rw [hws, henc.encode_eq, henc.fixedWords_eq, henc.payloadOf_eq]
    refine ⟨henc.wellFormed, ?_, fun k hk => ?_, ?_⟩
    · rw [List.length_append, List.length_append, packBytes_length, hpay.words]
    · rw [List.getElem?_append_left hk, List.getElem?_append_left hk]
    · rw [List.drop_left]; exact hpay.bytes_eq

/-! ### Illegal commands (30 R86) -/

/-- The word with ones in `len` bits from bit `lo`. -/
def fieldMask (lo len : Nat) : Word := (BitVec.allOnes len).setWidth 32 <<< lo

theorem and_fieldMask_eq_zero {w : Word} {lo len : Nat} (h : lo + len ≤ 32) :
    w &&& fieldMask lo len = 0#32 ↔ w.extractLsb' lo len = BitVec.ofNat len 0 := by
  constructor
  · intro h0
    apply BitVec.eq_of_getLsbD_eq
    intro i hi
    have := congrArg (fun x => x.getLsbD (lo + i)) h0
    simpa [fieldMask, hi, show lo + i < 32 by omega, show i < 32 by omega] using this
  · intro h0
    apply BitVec.eq_of_getLsbD_eq
    intro i hi
    have := congrArg (fun x => x.getLsbD (i - lo)) h0
    by_cases hlo : lo ≤ i
    · by_cases hlen : i - lo < len
      · have hbit : w.getLsbD i = false := by
          simpa [hlen, show lo + (i - lo) = i by omega] using this
        simp [hbit]
      · simp [fieldMask, hlen]
    · simp [fieldMask, hlo]

theorem and_or_eq_zero {w m n : Word} :
    w &&& (m ||| n) = 0#32 ↔ w &&& m = 0#32 ∧ w &&& n = 0#32 := by
  rw [BitVec.and_or_distrib_left, BitVec.or_eq_zero_iff]

/-- A field is refused for the bits that the opcode's mask reserves. -/
theorem reserved_iff {w : Word} {k lo len : Nat} (hm : Spec.reservedMask k = fieldMask lo len)
    (h : lo + len ≤ 32) :
    w &&& Spec.reservedMask k ≠ 0#32 ↔ w.extractLsb' lo len ≠ BitVec.ofNat len 0 := by
  rw [hm, Ne, and_fieldMask_eq_zero h]

/-- Where 30 R86 names no further condition, a command is illegal for its reserved bits alone. -/
theorem illegal_iff_reserved {w0 : Word} {k : Nat} (hop : Spec.op w0 = k)
    (h : k ∉ [0, 1, 3, 7, 15]) : Spec.Illegal w0 ↔ w0 &&& Spec.reservedMask k ≠ 0#32 := by
  simp only [List.mem_cons, List.not_mem_nil, or_false, not_or] at h
  simp [Spec.Illegal, hop, h]

theorem decodeBare_error {w0 : Word} {j : Instr} :
    (∃ e, decodeBare w0 j = .error e) ↔ w0.extractLsb' 0 28 ≠ 0#28 := by
  unfold decodeBare
  split_ifs with h <;> simp_all

/-- A role that a field names refuses active-high exactly when the field is a data line's. -/
theorem polarityOk_of_decodeRole {r : BitVec 4} {role : Role} (h : decodeRole r = some role)
    (pol : Bool) : role.polarityOk pol = false ↔ r.toNat ≤ 7 ∧ pol = true := by
  rw [← encodeRole_of_decodeRole h]
  cases role with
  | data k =>
    have hk : ∀ k, (encodeRole (.data k)).toNat ≤ 7 := by decide
    simp [Role.polarityOk, hk]
  | cs => simp [Role.polarityOk, encodeRole, Role.index]
  | dc => simp [Role.polarityOk, encodeRole, Role.index]
  | wr => simp [Role.polarityOk, encodeRole, Role.index]

theorem decodePinsel_error {w0 : Word} :
    (∃ e, decodePinsel w0 = .error e) ↔
      w0.extractLsb' 8 15 ≠ 0#15 ∨ 11 ≤ (w0.extractLsb' 24 4).toNat ∨
        ((w0.extractLsb' 24 4).toNat ≤ 7 ∧ w0.getLsbD 23 = true) := by
  unfold decodePinsel
  generalize w0.extractLsb' 24 4 = r, w0.getLsbD 23 = pol, w0.extractLsb' 8 15 = zero
  split_ifs with hzero
  · simp [hzero]
  · cases hrole : decodeRole r with
    | none => simp [decodeRole_eq_none.1 hrole]
    | some role =>
      have h11 : ¬11 ≤ r.toNat := by
        rw [← decodeRole_eq_none, hrole]; exact Option.some_ne_none role
      rw [← polarityOk_of_decodeRole hrole]
      cases hpol : role.polarityOk pol <;> simp [not_not.1 hzero, h11, hpol]

theorem decodeTx_error {w0 : Word} {ops : List Word}
    (hops : ops.length = payloadWords (lenField w0).toNat) :
    (∃ e, decodeTx w0 ops = .error e) ↔
      w0.extractLsb' 24 2 ≠ 0#2 ∨ (w0.getLsbD 27 = false ∧ w0.extractLsb' 16 8 ≠ 0#8) ∨
        (w0.getLsbD 26 = false ∧ lenField w0 ≠ 0#16) := by
  have hpay : payload (lenField w0).toNat ops =
      .ok ((unpackBytes ops).take (lenField w0).toNat) :=
    payload_eq_ok.2 ⟨by rw [hops, payloadWords]; omega, rfl⟩
  rw [decodeTx, hpay]
  split_ifs <;> simp_all

theorem decodeSetofs_error {w0 : Word} :
    (∃ e, decodeSetofs w0 = .error e) ↔
      w0.extractLsb' 16 11 ≠ 0#11 ∨ (w0.getLsbD 27 = true ∧ w0.extractLsb' 0 16 ≠ 0#16) := by
  unfold decodeSetofs
  split_ifs <;> simp_all

theorem decodeSetxf_error {w0 : Word} :
    (∃ e, decodeSetxf w0 = .error e) ↔ w0 &&& Spec.reservedMask 0xA ≠ 0#32 := by
  rw [show Spec.reservedMask 0xA = fieldMask 20 8 ||| fieldMask 6 10 ||| fieldMask 3 1 by decide,
    Ne, and_or_eq_zero, and_or_eq_zero, and_fieldMask_eq_zero (by decide),
    and_fieldMask_eq_zero (by decide), and_fieldMask_eq_zero (by decide), not_and_or,
    not_and_or, or_assoc]
  unfold decodeSetxf
  split_ifs <;> simp_all

theorem decodeXform_error {w0 w1 : Word} :
    (∃ e, decodeXform w0 [w1] = .error e) ↔ w0 &&& Spec.reservedMask 0xB ≠ 0#32 := by
  rw [show Spec.reservedMask 0xB = fieldMask 20 8 ||| fieldMask 0 16 by decide,
    Ne, and_or_eq_zero, and_fieldMask_eq_zero (by decide), and_fieldMask_eq_zero (by decide),
    not_and_or]
  unfold decodeXform
  split_ifs <;> simp_all

theorem illegal_pinsel {w0 : Word} (hop : Spec.op w0 = 1) :
    Spec.Illegal w0 ↔ ∃ e, decodePinsel w0 = .error e := by
  rw [decodePinsel_error, ← reserved_iff (k := 1) (by decide) (by decide), toNat_extractLsb'_eq,
    getLsbD_eq_true_iff]
  simp [Spec.Illegal, hop]

theorem illegal_tx {w0 : Word} {ops : List Word} (hop : Spec.op w0 = 3)
    (hops : ops.length = payloadWords (lenField w0).toNat) :
    Spec.Illegal w0 ↔ ∃ e, decodeTx w0 ops = .error e := by
  have hbit : ∀ k, w0.getLsbD k = false ↔ w0.toNat / 2 ^ k % 2 = 0 := fun k => by
    rw [← Bool.not_eq_true, getLsbD_eq_true_iff]; omega
  rw [decodeTx_error hops, ← reserved_iff (k := 3) (by decide) (by decide), hbit, hbit,
    extractLsb'_ne_zero_iff w0 16 8]
  simp [Spec.Illegal, hop, ← BitVec.toNat_inj, lenField_toNat]

theorem illegal_setofs {w0 : Word} (hop : Spec.op w0 = 7) :
    Spec.Illegal w0 ↔ ∃ e, decodeSetofs w0 = .error e := by
  rw [decodeSetofs_error, ← reserved_iff (k := 7) (by decide) (by decide), getLsbD_eq_true_iff,
    extractLsb'_ne_zero_iff w0 0 16]
  simp [Spec.Illegal, hop]

theorem illegal_bare {w0 : Word} {k : Nat} {j : Instr} (hop : Spec.op w0 = k)
    (hk : k ∉ [0, 1, 3, 7, 15]) (hm : Spec.reservedMask k = fieldMask 0 28) :
    Spec.Illegal w0 ↔ ∃ e, decodeBare w0 j = .error e := by
  rw [illegal_iff_reserved hop hk, decodeBare_error, reserved_iff hm (by decide)]

theorem illegal_setwin {w0 w1 : Word} (hop : Spec.op w0 = 6) :
    Spec.Illegal w0 ↔ ∃ e, decodeSetwin w0 [w1] = .error e := by
  rw [illegal_iff_reserved hop (by decide),
    reserved_iff (lo := 16) (len := 12) (by decide) (by decide)]
  unfold decodeSetwin
  split_ifs <;> simp_all

theorem illegal_regdev {w0 : Word} (hop : Spec.op w0 = 9) :
    Spec.Illegal w0 ↔ ∃ e, decodeRegdev w0 = .error e := by
  rw [illegal_iff_reserved hop (by decide),
    reserved_iff (lo := 13) (len := 15) (by decide) (by decide)]
  unfold decodeRegdev
  split_ifs <;> simp_all

theorem illegal_mappt {w0 w1 : Word} (hop : Spec.op w0 = 12) :
    Spec.Illegal w0 ↔ ∃ e, decodeMappt w0 [w1] = .error e := by
  rw [illegal_iff_reserved hop (by decide),
    reserved_iff (lo := 0) (len := 28) (by decide) (by decide)]
  unfold decodeMappt
  split_ifs <;> simp_all

theorem illegal_blit {w0 w1 w2 w3 : Word} {ps : List Word} (hop : Spec.op w0 = 13)
    (hps : ps.length = payloadWords w3.toNat) :
    Spec.Illegal w0 ↔ ∃ e, decodeBlit w0 (w1 :: w2 :: w3 :: ps) = .error e := by
  have hpay : payload w3.toNat ps = .ok ((unpackBytes ps).take w3.toNat) :=
    payload_eq_ok.2 ⟨by rw [hps, payloadWords]; omega, rfl⟩
  rw [illegal_iff_reserved hop (by decide),
    reserved_iff (lo := 0) (len := 28) (by decide) (by decide), decodeBlit, hpay]
  split_ifs <;> simp_all

/-- Settles O3: the errors of each format are the conditions 30 R86 puts on it, since a complete
command has all its words and so is never truncated. -/
theorem decoderRefusesExactlyIllegal : Obligations.DecoderRefusesExactlyIllegal := by
  intro w0 ops hl
  symm
  match hop : Spec.op w0, op_lt w0 with
  | 0, _ => simp [decodeCommand_reserved ops (.inl hop), Spec.Illegal, hop]
  | 1, _ => rw [decodeCommand_pinsel ops hop]; exact illegal_pinsel hop
  | 2, _ => rw [decodeCommand_build ops hop]; exact illegal_bare hop (by decide) (by decide)
  | 3, _ => rw [decodeCommand_tx ops hop]; exact illegal_tx hop (length_of_complete_tx hop hl)
  | 4, _ =>
    rw [decodeCommand_setrot ops hop, illegal_iff_reserved hop (by decide)]
    simp [Spec.reservedMask, decodeSetrot]
  | 5, _ => rw [decodeCommand_getrot ops hop]; exact illegal_bare hop (by decide) (by decide)
  | 6, _ =>
    obtain ⟨w1, rfl⟩ := eq_singleton_of_complete (by simp [hop]) hl
    rw [decodeCommand_setwin _ hop]; exact illegal_setwin hop
  | 7, _ => rw [decodeCommand_setofs ops hop]; exact illegal_setofs hop
  | 8, _ => rw [decodeCommand_getofs ops hop]; exact illegal_bare hop (by decide) (by decide)
  | 9, _ => rw [decodeCommand_regdev ops hop]; exact illegal_regdev hop
  | 10, _ =>
    rw [decodeCommand_setxf ops hop, illegal_iff_reserved hop (by decide), decodeSetxf_error]
  | 11, _ =>
    obtain ⟨w1, rfl⟩ := eq_singleton_of_complete (by simp [hop]) hl
    rw [decodeCommand_xform _ hop, illegal_iff_reserved hop (by decide), decodeXform_error]
  | 12, _ =>
    obtain ⟨w1, rfl⟩ := eq_singleton_of_complete (by simp [hop]) hl
    rw [decodeCommand_mappt _ hop]; exact illegal_mappt hop
  | 13, _ =>
    obtain ⟨w1, w2, w3, ps, rfl, hlen⟩ := eq_cons_of_complete_blit hop hl
    rw [decodeCommand_blit _ hop]; exact illegal_blit hop hlen
  | 14, _ => rw [decodeCommand_compose ops hop]; exact illegal_bare hop (by decide) (by decide)
  | 15, _ => simp [decodeCommand_reserved ops (.inr hop), Spec.Illegal, hop]
  | n + 16, hn => omega

/-! ### Example words (95 section 2) -/

/-- Settles O4: the decoder is run on each of the words. -/
theorem exampleWordsDecode : Obligations.ExampleWordsDecode := by
  unfold Obligations.ExampleWordsDecode
  decide

end Sys2Proof
end

section
/-! Proofs of family 60: what each command answers, and what follows for the status, `RESULT` and
the other state (spec 60, 10 R31). -/

namespace Sys2Proof.Machine

variable {s t : State} {i : Instr}

/-! ### Every command's answers -/

/-- What a command can answer: an error of its own raised in the state it began in, the bus killed
by a BUILD whose configuration check fails, or the command's effect, one constructor per command. -/
inductive Answer (s : State) : Instr → State → Prop where
  | raised {i : Instr} {e : ErrCode} (hcode : e ∈ Spec.mayReport i) (herr : e ≠ .ok) :
      Answer s i (s.raise e)
  | rejected {e : ErrCode} (hfatal : s.busFatal = false) (hcheck : s.configError = some e) :
      Answer s .build (s.killBus.raise e)
  | pinsel (role : Role) (pol : Bool) (pin : Byte) :
      Answer s (.pinsel role pol pin) (s.stagePin role ⟨true, pin, pol⟩).complete
  | build (hfatal : s.busFatal = false) (hcheck : s.configError = none) :
      Answer s .build
        (s.installBus s.stagedRegisterMap (buildLut s.par s.stagedDataPins)).complete
  | tx (cmd : Option Byte) (data : Option (List Byte)) (hfatal : s.busFatal = false)
      (hready : s.busReady = true) :
      Answer s (.tx cmd data)
        (s.emit (s.transaction cmd data) (lastAfter s.last (cmd.toList ++ data.getD []))).complete
  | setrot {imm : BitVec 28} (hturn : degreesOf imm % 90 = 0) :
      Answer s (.setrot imm) (s.rotateTo (Rot.ofDegrees (degreesOf imm))).complete
  | getrot : Answer s .getrot (s.setResult (BitVec.ofNat 32 s.rot.degrees)).complete
  | setwin {tfa vsa bfa : Half} (hsum : tfa.toNat + vsa.toNat + bfa.toNat = s.par.h0) :
      Answer s (.setwin tfa vsa bfa) (s.setWindow tfa vsa bfa (keptOffset s.ofs vsa)).complete
  | setofs {ofs : Option Half} (hin : ∀ o, ofs = some o → o.toNat < s.vsa.toNat) :
      Answer s (.setofs ofs) (s.setOffset ofs).complete
  | getofs : Answer s .getofs (s.setResult (offsetWord s.ofs)).complete
  | regdev (cap : Capability) (t0 t1 t2 t3 : BitVec 3) {d : Fin 16} (hfree : s.freeSlot = some d) :
      Answer s (.regdev cap t0 t1 t2 t3)
        ((s.setDevice d.val ⟨true, cap, #v[t0, t1, t2, t3]⟩).setResult
          (BitVec.ofNat 32 d.val)).complete
  | setxf {dev : BitVec 4} (idx : BitVec 2) (xf : BitVec 3) {e : Device}
      (hreg : s.registeredDevice dev = some e) :
      Answer s (.setxf dev idx xf)
        (s.setDevice dev.toNat { e with xf := e.xf.set idx.toNat xf }).complete
  | xform {dev : BitVec 4} (x y : Half) (v : Word) :
      Answer s (.xform dev x y) (s.setResult v).complete
  | mappt (lx ly : Half) (v : Word) : Answer s (.mappt lx ly) (s.setResult v).complete
  | blit {bx bY bw bh : Half} (bytes : List Byte) (hw : bx.toNat + bw.toNat ≤ s.lw)
      (hh : bY.toNat + bh.toNat ≤ s.lh) :
      Answer s (.blit bx bY bw bh bytes)
        (s.setBacking (blitPixels s.par.bytesPerPixel s.lw bx.toNat bY.toNat bw.toNat bh.toNat
          bytes s.bb)).complete
  | compose : Answer s .compose (s.setFrame s.composed).complete

/-- Each of the codes a configuration check reports is an error that the table gives to BUILD. -/
theorem State.configError_mem {e : ErrCode} (h : s.configError = some e) :
    e ∈ Spec.mayReport .build ∧ e ≠ .ok := by
  obtain rfl | rfl | rfl | rfl := State.configError_cases h <;> decide

theorem exec_answer (h : exec i s = .next t) : Answer s i t := by
  cases i with
  | pinsel => exact execPinsel_cases h ▸ .pinsel ..
  | build =>
    obtain ⟨_, rfl⟩ | ⟨hf, e, he, rfl⟩ | ⟨hf, hc, rfl⟩ := execBuild_cases h
    exacts [.raised (by simp [Spec.mayReport]) (by decide), .rejected hf he, .build hf hc]
  | tx =>
    obtain ⟨_, rfl⟩ | ⟨_, _, rfl⟩ | ⟨hf, hr, rfl⟩ := execTx_cases h
    exacts [.raised (by simp [Spec.mayReport]) (by decide),
      .raised (by simp [Spec.mayReport]) (by decide), .tx _ _ hf hr]
  | setrot =>
    obtain ⟨_, rfl⟩ | ⟨hd, rfl⟩ := execSetrot_cases h
    exacts [.raised (by simp [Spec.mayReport]) (by decide), .setrot hd]
  | getrot => exact execGetrot_cases h ▸ .getrot
  | setwin =>
    obtain ⟨_, rfl⟩ | ⟨hsum, rfl⟩ := execSetwin_cases h
    exacts [.raised (by simp [Spec.mayReport]) (by decide), .setwin hsum]
  | setofs =>
    obtain ⟨rfl, rfl⟩ | ⟨_, _, _, rfl⟩ | ⟨o, rfl, ho, rfl⟩ := execSetofs_cases h
    exacts [.setofs (by simp), .raised (by simp [Spec.mayReport]) (by decide),
      .setofs (by simpa using ho)]
  | getofs => exact execGetofs_cases h ▸ .getofs
  | regdev =>
    obtain ⟨_, rfl⟩ | ⟨_, hd, rfl⟩ := execRegdev_cases h
    exacts [.raised (by simp [Spec.mayReport]) (by decide), .regdev _ _ _ _ _ hd]
  | setxf =>
    obtain ⟨_, rfl⟩ | ⟨_, he, rfl⟩ := execSetxf_cases h
    exacts [.raised (by simp [Spec.mayReport]) (by decide), .setxf _ _ he]
  | xform =>
    obtain ⟨_, rfl⟩ | ⟨_, _, rfl⟩ := execXform_cases h
    exacts [.raised (by simp [Spec.mayReport]) (by decide), .xform ..]
  | mappt =>
    obtain ⟨_, rfl⟩ | ⟨_, _, rfl⟩ := execMappt_cases h
    exacts [.raised (by simp [Spec.mayReport]) (by decide), .mappt ..]
  | blit =>
    obtain ⟨_, rfl⟩ | ⟨_, _, _, rfl⟩ | ⟨hw, hh, _, rfl⟩ := execBlit_cases h
    exacts [.raised (by simp [Spec.mayReport]) (by decide),
      .raised (by simp [Spec.mayReport]) (by decide), .blit _ hw hh]
  | compose => exact execCompose_cases h ▸ .compose

/-- A command reports `OK` and leaves `ANY_ERR`, or reports an error of its row, sets `ANY_ERR` and
leaves `RESULT`. -/
theorem Answer.status (h : Answer s i t) :
    (t.lastErr = .ok ∧ t.anyErr = s.anyErr) ∨
      (t.lastErr ≠ .ok ∧ t.lastErr ∈ Spec.mayReport i ∧ t.anyErr = true ∧ t.result = s.result) := by
  cases h with
  | raised hcode herr => exact .inr ⟨herr, hcode, rfl, rfl⟩
  | rejected _ hcheck =>
    obtain ⟨hcode, herr⟩ := State.configError_mem hcheck
    exact .inr ⟨herr, hcode, rfl, rfl⟩
  | _ => exact .inl (by simp)

/-- Settles O14: a command completes and leaves `ANY_ERR`, or fails and sets it. -/
theorem stickyErrorFollowsStatus : Obligations.StickyErrorFollowsStatus := by
  intro i s t h
  obtain ⟨hok, hany⟩ | ⟨herr, -, hany, -⟩ := (exec_answer h).status
  · exact ⟨fun _ => hany, fun herr => absurd hok herr⟩
  · exact ⟨fun hok => absurd hok herr, fun _ => hany⟩

/-- `OK` stands in every command's row. -/
theorem ok_mem_mayReport (i : Instr) : ErrCode.ok ∈ Spec.mayReport i := by
  cases i <;> exact List.mem_cons_self

/-- Settles O15: what a failing command raises stands in its row, and so does `OK`. -/
theorem commandReportsOnlyItsCodes : Obligations.CommandReportsOnlyItsCodes := by
  intro i s t h
  obtain ⟨hok, -⟩ | ⟨-, hcode, -⟩ := (exec_answer h).status
  · exact hok ▸ ok_mem_mayReport i
  · exact hcode

/-- `RESULT` changes only with a command that produces one. -/
theorem Answer.result_eq (h : Answer s i t) (hp : Spec.producesResult i = false) :
    t.result = s.result := by
  cases h with
  | getrot | getofs | regdev | xform | mappt => cases hp
  | _ => simp

/-- Settles O16: a failing command raises its error and nothing else, and the effect of a command
without output leaves `RESULT`. -/
theorem resultOnlyFromProducers : Obligations.ResultOnlyFromProducers := by
  rintro i s t h (herr | hp)
  · obtain ⟨hok, -⟩ | ⟨-, -, -, hres⟩ := (exec_answer h).status
    · exact absurd hok herr
    · exact hres
  · exact (exec_answer h).result_eq hp

/-! ### Who writes what -/

/-- What every command leaves: the parameters, the stream and what fetching keeps. -/
theorem Answer.frame (h : Answer s i t) :
    t.par = s.par ∧ t.stream = s.stream ∧ t.cp = s.cp ∧ t.held = s.held ∧
      t.waiting = s.waiting := by
  cases h <;> simp

/-- Settles O17: for each answer, the fields it changes are those its command may write. -/
theorem onlyNamedCommandsWrite : Obligations.OnlyNamedCommandsWrite := by
  intro i s t h
  cases exec_answer h <;> simp

end Sys2Proof.Machine
end

section
/-! Proofs of family 20: the steps of the block, and settling (spec 20 R50 to R52, 30 R85). -/

namespace Sys2Proof.Machine

variable {s t : State}

/-! ### What a step does (30 R85) -/

theorem step_of_idle (h : s.fetched = .idle) : step s = .next s := by simp only [step, h]

theorem step_of_incomplete (h : s.fetched = .incomplete) : step s = .next s.hold := by
  simp only [step, h]

theorem step_of_ok {ws : List Word} {i : Instr} (h : s.fetched = .command ws)
    (hd : decodeCommand ws = .ok i) : step s = exec i (s.consume ws.length) := by
  simp only [step, h, hd]

theorem step_of_error {ws : List Word} {e : DecodeError} (h : s.fetched = .command ws)
    (hd : decodeCommand ws = .error e) :
    step s = .next ((s.consume ws.length).raise .illegal) := by
  simp only [step, h, hd]

/-- Every command answers a next state. -/
theorem exists_exec_eq (i : Instr) (s : State) : ∃ t, exec i s = .next t := by
  cases i with
  | pinsel => exact ⟨_, rfl⟩
  | build => rw [exec, execBuild]; split_ifs; exacts [⟨_, rfl⟩, by split <;> exact ⟨_, rfl⟩]
  | tx => rw [exec, execTx]; split_ifs <;> exact ⟨_, rfl⟩
  | setrot => rw [exec, execSetrot]; split_ifs <;> exact ⟨_, rfl⟩
  | getrot => exact ⟨_, rfl⟩
  | setwin => rw [exec, execSetwin]; split_ifs <;> exact ⟨_, rfl⟩
  | setofs ofs =>
    cases ofs with
    | none => exact ⟨_, rfl⟩
    | some o => simp only [exec, execSetofs]; split_ifs <;> exact ⟨_, rfl⟩
  | getofs => exact ⟨_, rfl⟩
  | regdev => rw [exec, execRegdev]; split <;> exact ⟨_, rfl⟩
  | setxf => rw [exec, execSetxf]; split <;> exact ⟨_, rfl⟩
  | xform => rw [exec, execXform]; split <;> exact ⟨_, rfl⟩
  | mappt => rw [exec, execMappt]; split_ifs <;> exact ⟨_, rfl⟩
  | blit => rw [exec, execBlit]; split_ifs <;> exact ⟨_, rfl⟩
  | compose => exact ⟨_, rfl⟩

/-- What a step can do: nothing, hold, or fetch a whole command and end it, by the command's own
answer or as illegal. -/
inductive Stepped (s : State) : State → Prop where
  | idle (h : s.fetched = .idle) : Stepped s s
  | held (h : s.fetched = .incomplete) : Stepped s s.hold
  | illegal {ws : List Word} (h : s.fetched = .command ws) :
      Stepped s ((s.consume ws.length).raise .illegal)
  | ran {ws : List Word} {i : Instr} {t : State} (h : s.fetched = .command ws)
      (hans : Answer (s.consume ws.length) i t) : Stepped s t

theorem step_stepped (h : step s = .next t) : Stepped s t := by
  cases hf : s.fetched with
  | idle =>
    rw [step_of_idle hf] at h
    injection h with h
    exact h ▸ .idle hf
  | incomplete =>
    rw [step_of_incomplete hf] at h
    injection h with h
    exact h ▸ .held hf
  | command ws =>
    cases hd : decodeCommand ws with
    | error e =>
      rw [step_of_error hf hd] at h
      injection h with h
      exact h ▸ .illegal hf
    | ok i => exact .ran hf (exec_answer (step_of_ok hf hd ▸ h))

/-- Settles O10: an idle or incomplete fetch keeps or holds, and a whole command answers or is
illegal. -/
theorem everyStepAnswersNext : Obligations.EveryStepAnswersNext := by
  intro s
  cases hf : s.fetched with
  | idle => exact ⟨s, step_of_idle hf⟩
  | incomplete => exact ⟨_, step_of_incomplete hf⟩
  | command ws =>
    cases hd : decodeCommand ws with
    | error e => exact ⟨_, step_of_error hf hd⟩
    | ok i => exact step_of_ok hf hd ▸ exists_exec_eq i _

/-- Settles O6: `consume` is the state the command runs in. -/
theorem stepRunsDecodedCommand : Obligations.StepRunsDecodedCommand :=
  fun _ _ _ hf hd => step_of_ok hf hd

/-- Settles O8: all words ahead are held, and `CP` is past the last. -/
theorem stepHoldsUntilLastWord : Obligations.StepHoldsUntilLastWord := by
  intro s hf
  rw [step_of_incomplete hf, State.hold, List.length_drop]
  rfl

/-- Settles O9: no word held and none in the stream is no word ahead. -/
theorem idleBlockKeepsState : Obligations.IdleBlockKeepsState := by
  intro s hheld hstream
  refine step_of_idle (frameCommand_eq_idle.2 ?_)
  rw [State.wordsAhead, hheld, List.nil_append, List.drop_eq_nil_of_le hstream]

/-! ### Illegal commands (30 R86) -/

theorem four_le_of_blit {w0 : Word} {ops : List Word} {n : Nat} (hD : Spec.op w0 = 0xD)
    (h : commandLength (w0 :: ops) = some n) : 4 ≤ n := by
  match ops, h with
  | w1 :: w2 :: w3 :: ps, h =>
    rw [commandLength_blit hD] at h
    have := Option.some.inj h
    omega
  | [], h => simp [commandLength, opcode_toNat, hD] at h
  | [_], h => simp [commandLength, opcode_toNat, hD] at h
  | [_, _], h => simp [commandLength, opcode_toNat, hD] at h

/-- A framed command is complete: its own words give its length. -/
theorem commandLength_of_frameCommand {us ws : List Word} (h : frameCommand us = .command ws) :
    commandLength ws = some ws.length := by
  obtain ⟨n, hn, hle, rfl⟩ := frameCommand_eq_command.1 h
  match us, hn with
  | w0 :: rest, hn =>
    obtain ⟨m, rfl⟩ : ∃ m, n = m + 1 := ⟨n - 1, by have := commandLength_pos hn; omega⟩
    have hlen : (rest.take m).length = m := List.length_take_of_le (by simpa using hle)
    have htake : commandLength (w0 :: rest.take m) =
        some (Spec.lengthOf w0 ((rest.take m).getD 2 0)) :=
      commandLength_eq_lengthOf fun hD => by have := four_le_of_blit hD hn; omega
    have happ := commandLength_append (rest.drop m) htake
    rw [List.cons_append, List.take_append_drop, hn] at happ
    rw [List.take_succ_cons, htake, ← happ, List.length_cons, hlen]

/-- Settles O7: a framed illegal command has no decoding, and is consumed before it raises. -/
theorem illegalCommandChangesStatusOnly : Obligations.IllegalCommandChangesStatusOnly := by
  intro s w0 ops hf hill
  obtain ⟨e, he⟩ :=
    (decoderRefusesExactlyIllegal w0 ops (commandLength_of_frameCommand hf)).2 hill
  exact step_of_error hf he

/-! ### The fetch pointer (20 R50 to R52) -/

/-- Settles O11: a command's answer keeps the stream, the parameters and `CP`, so only consuming and
holding move `CP`. -/
theorem stepMovesPointerByFetchedWords : Obligations.StepMovesPointerByFetchedWords := by
  intro s t h
  cases step_stepped h with
  | idle hf => simp [hf]
  | held hf => simp [hf]
  | illegal hf => simp [hf]
  | ran hf hans =>
    obtain ⟨hpar, hstream, hcp, -, -⟩ := hans.frame
    simp [hf, hpar, hstream, hcp]

/-- The step of a whole command depends on its words and on the state with them consumed. -/
theorem step_congr {u v : State} {ws : List Word} (hu : u.fetched = .command ws)
    (hv : v.fetched = .command ws) (h : u.consume ws.length = v.consume ws.length) :
    step u = step v := by
  cases hd : decodeCommand ws with
  | error e => rw [step_of_error hu hd, step_of_error hv hd, h]
  | ok i => rw [step_of_ok hu hd, step_of_ok hv hd, h]

/-- With nothing held and the stream fetched, the words ahead are those written next. -/
theorem wordsAhead_of_written (hheld : s.held = []) (hcp : s.cp = s.stream.length)
    (ws : List Word) : State.wordsAhead { s with stream := s.stream ++ ws } = ws := by
  simp [State.wordsAhead, hheld, hcp]

/-- Settles O12: the words of the first part are held, so the second part completes the same words;
consuming them leaves the same state, `CP` past both parts. -/
theorem splitCommandRunsAsWhole : Obligations.SplitCommandRunsAsWhole := by
  intro s a b hheld hcp hpart hwhole
  have hahead := wordsAhead_of_written hheld hcp a
  have hf1 : State.fetched { s with stream := s.stream ++ a } = .incomplete := by
    rw [State.fetched, hahead, hpart]
  refine ⟨_, step_of_incomplete hf1, rfl, ?_⟩
  refine step_congr (ws := a ++ b) ?_ ?_ ?_
  · rw [State.fetched, ← hwhole]
    congr 1
    simp [State.wordsAhead, State.hold, hheld, hcp]
  · rw [State.fetched, wordsAhead_of_written hheld hcp, hwhole]
  · simp [State.consume, State.hold, State.wordsAhead, hheld, hcp, Nat.add_assoc]

/-! ### Settling (10 R37) -/

/-- Holding leaves nothing in the stream to hold. -/
theorem State.hold_hold (s : State) : s.hold.hold = s.hold := by
  have hend : (s.stream.drop s.hold.cp).length = 0 := by
    rw [List.length_drop, State.hold_cp, List.length_drop]
    omega
  rw [State.hold, State.hold_wordsAhead, State.hold_stream, hend]
  rfl

/-- A block that holds holds again without change. -/
theorem step_hold (h : s.fetched = .incomplete) : step s.hold = .next s.hold := by
  have hf : s.hold.fetched = .incomplete := by rw [State.fetched, State.hold_wordsAhead]; exact h
  rw [step_of_incomplete hf, State.hold_hold]

/-- A step that ends a command leaves fewer words ahead. -/
theorem wordsAhead_lt_of_consumed {ws : List Word} (hf : s.fetched = .command ws)
    (hheld : t.held = []) (hstream : t.stream = s.stream)
    (hcp : t.cp = s.cp + (ws.length - s.held.length)) :
    t.wordsAhead.length < s.wordsAhead.length := by
  obtain ⟨hpos, hle⟩ := frameCommand_length hf
  rw [State.wordsAhead_length] at hle ⊢
  rw [State.wordsAhead_length, hheld, hstream, hcp, List.length_nil]
  omega

theorem run_settles (k : Nat) (s : State) (hk : s.wordsAhead.length < k) :
    ∃ t, Sys2Proof.core.run k s = .next t ∧ t.Settled ∧ t.stream = s.stream := by
  induction k generalizing s with
  | zero => omega
  | succ k ih =>
    obtain ⟨t, ht⟩ := everyStepAnswersNext s
    have hgo : t.wordsAhead.length < s.wordsAhead.length → t.stream = s.stream →
        ∃ u, Sys2Proof.core.run (k + 1) s = .next u ∧ u.Settled ∧ u.stream = s.stream := by
      intro hlt hstream
      rw [run_succ k ht, ← hstream]
      exact ih t (by omega)
    cases step_stepped ht with
    | idle hf => exact ⟨s, run_fixed _ ht, fun ws => by rw [hf]; exact nofun, rfl⟩
    | held hf =>
      refine ⟨s.hold, by rw [run_succ k ht, run_fixed k (step_hold hf)], fun ws => ?_, rfl⟩
      rw [State.fetched, State.hold_wordsAhead, ← State.fetched, hf]
      exact nofun
    | illegal hf => exact hgo (wordsAhead_lt_of_consumed hf rfl rfl rfl) rfl
    | ran hf hans =>
      obtain ⟨-, hstream, hcp, hheld, -⟩ := hans.frame
      exact hgo (wordsAhead_lt_of_consumed hf hheld hstream hcp) hstream

/-- Settles O58: one step more than there are words ahead settles, since each step that executes a
command uses up a word. -/
theorem settlingExecutesEveryCommand : Obligations.SettlingExecutesEveryCommand :=
  fun s => run_settles s.pending s (Nat.lt_succ_self _)

end Sys2Proof.Machine
end

section
/-! Proofs about the invariant of 10 R38: what each state update needs to keep it, and that every
step, host write and reset keeps it. -/

namespace Sys2Proof.Machine

variable {s t : State} {p : Params}

/-! ### One rule per state update -/

namespace State.Inv

theorem raise (h : s.Inv) (e : ErrCode) : (s.raise e).Inv := { h with }

theorem complete (h : s.Inv) : s.complete.Inv := { h with }

theorem setResult (h : s.Inv) (v : Word) : (s.setResult v).Inv := { h with }

theorem stagePin (h : s.Inv) (r : Role) (e : StageEntry) : (s.stagePin r e).Inv := { h with }

theorem clearStatus (h : s.Inv) (v : Word) : (s.clearStatus v).Inv := { h with }

theorem killBus (h : s.Inv) : s.killBus.Inv :=
  { h with
    bus := by simp
    lastNone := fun _ => rfl
    ngRange := nofun
    ngGroups := nofun
    ascending := nofun
    masks := nofun
    control := nofun }

theorem installBus (h : s.Inv) (hfatal : s.busFatal = false) {c : RegisterMap} {gs : List LutGroup}
    (hlen : 1 ≤ gs.length ∧ gs.length ≤ 8) (hasc : gs.Pairwise fun g k => g.grp < k.grp)
    (hsound : ∀ g ∈ gs, g.Sound s.par) (hctl : ∀ w ∈ c.writes, w.addr ∈ s.par.gpioAddrs) :
    (s.installBus c gs).Inv :=
  { h with
    bus := by simp [hfatal]
    lastNone := nofun
    ngRange := fun _ => hlen
    ngGroups := fun _ => rfl
    ascending := fun _ => hasc
    masks := fun _ => hsound
    control := fun _ => hctl }

theorem emit (h : s.Inv) (hready : s.busReady = true) {ws : List GpioWrite}
    (hws : ∀ w ∈ ws, w.addr ∈ s.par.gpioAddrs) (last : Option Byte) : (s.emit ws last).Inv :=
  { h with
    lastNone := fun hr => absurd (hready.symm.trans hr) (by decide)
    traced := fun w hw => (List.mem_append.1 hw).elim (h.traced w) (hws w) }

theorem setRotation (h : s.Inv) (n : Rot) {bb : Memory} (hwf : bb.wf)
    (hsize : bb.within (logicalWidth s.par n * logicalHeight s.par n * s.par.bytesPerPixel)) :
    (s.setRotation n bb).Inv :=
  { h with
    bbWf := hwf
    bbSize := hsize }

theorem rotateTo (h : s.Inv) (n : Rot) : (s.rotateTo n).Inv := by
  obtain ⟨-, hsame⟩ | ⟨-, hrebuilt⟩ := s.rotateTo_cases n
  · exact hsame.symm ▸ h
  · rw [hrebuilt]
    exact h.setRotation n (rebuild_wf ..) (rebuild_cells_lt s.par s.bb s.rot n)

theorem setWindow (h : s.Inv) {tfa vsa bfa : Half} {ofs : Option Half}
    (hsum : tfa.toNat + vsa.toNat + bfa.toNat = s.par.h0)
    (hofs : ∀ o, ofs = some o → o.toNat < vsa.toNat) : (s.setWindow tfa vsa bfa ofs).Inv :=
  { h with
    window := hsum
    offset := hofs }

theorem setOffset (h : s.Inv) {ofs : Option Half}
    (hofs : ∀ o, ofs = some o → o.toNat < s.vsa.toNat) : (s.setOffset ofs).Inv :=
  { h with offset := hofs }

theorem setDevice (h : s.Inv) {d : Nat} (hd : d < s.par.numDevices) (e : Device) :
    (s.setDevice d e).Inv :=
  { h with
    slots := fun k hk => by
      have hne : d ≠ k.val := by simp only [State.setDevice_par] at hk; omega
      simpa [hne] using h.slots k hk }

theorem setBacking (h : s.Inv) {m : Memory} (hwf : m.wf)
    (hsize : m.within (s.lw * s.lh * s.par.bytesPerPixel)) : (s.setBacking m).Inv :=
  { h with
    bbWf := hwf
    bbSize := hsize }

theorem setFrame (h : s.Inv) {m : Memory} (hwf : m.wf)
    (hsize : m.within (s.par.w0 * s.par.h0 * s.par.bytesPerPixel)) : (s.setFrame m).Inv :=
  { h with
    pfWf := hwf
    pfSize := hsize }

theorem consume (h : s.Inv) {ws : List Word} (hf : s.fetched = .command ws) :
    (s.consume ws.length).Inv :=
  { h with
    pointer := by
      have hle := (frameCommand_length hf).2
      have hcp := h.pointer
      rw [State.wordsAhead_length] at hle
      simp only [State.consume_cp, State.consume_stream]
      omega
    heldWords := by simp
    heldOpen := .inl rfl
    waitingHeld := by simp }

theorem held_length_le (h : s.Inv) : s.held.length ≤ s.cp := by
  have := congrArg List.length h.heldWords
  simp at this
  omega

/-- The words held are the ones before `CP`, so the words ahead begin that far before `CP`. -/
theorem wordsAhead_eq (h : s.Inv) : s.wordsAhead = s.stream.drop (s.cp - s.held.length) := by
  have hsplit : s.stream.drop (s.cp - s.held.length) =
      (s.stream.take s.cp).drop (s.cp - s.held.length) ++ s.stream.drop s.cp := by
    conv_lhs => rw [← List.take_append_drop s.cp s.stream]
    rw [List.drop_append_of_le_length]
    have := h.pointer
    simp; omega
  rw [hsplit, ← h.heldWords]
  rfl

theorem hold (h : s.Inv) (hf : s.fetched = .incomplete) : s.hold.Inv :=
  have hcp : s.hold.cp = s.stream.length := by have := h.pointer; simp; omega
  { h with
    pointer := hcp.le
    heldWords := by
      have hpointer := h.pointer
      have hheld := h.held_length_le
      rw [hcp, State.hold_held, State.hold_stream, List.take_length, State.wordsAhead_length,
        h.wordsAhead_eq]
      congr 1
      omega
    heldOpen := .inr hf
    waitingHeld := by simpa using (frameCommand_eq_incomplete.1 hf).1 }

end State.Inv

/-! ### BUILD installs a sound bus (41 R113) -/

/-- Every write of a pin's control mask goes to one of the GPIO registers. -/
theorem regmap_addr_mem (hp : p.Legal) {n : Byte} (hn : n.toNat < p.numPins) {pol : Bool}
    {w : GpioWrite} (hw : w = (regmap p n pol).act ∨ w = (regmap p n pol).deact) :
    w.addr ∈ p.gpioAddrs := by
  have hg := pinGroup_lt_numGroups hn
  obtain ⟨hf, -, h | h⟩ | ⟨hf, h, -⟩ := regmap_cases p n pol w hw
  · exact h ▸ setAddr_mem hp hf hg
  · exact h ▸ clrAddr_mem hp hf hg
  · exact h ▸ bsrrAddr_mem hp hf hg

/-- The staged entry of a control role. -/
def State.ControlPin (s : State) (n : Byte) (pol : Bool) : Prop :=
  ∃ r : Role, (r = .cs ∨ r = .dc ∨ r = .wr) ∧ n = (s.staged r).pin ∧ pol = (s.staged r).pol

/-- The writes of the installed RegisterMap are those of the control pins. -/
theorem State.mem_stagedRegisterMap_writes {w : GpioWrite} (h : w ∈ s.stagedRegisterMap.writes) :
    ∃ n pol, s.ControlPin n pol ∧
      (w = (regmap s.par n pol).act ∨ w = (regmap s.par n pol).deact) := by
  simp only [RegisterMap.writes, State.stagedRegisterMap, List.mem_cons, List.not_mem_nil,
    or_false] at h
  obtain h | h | h | h | h | h := h
  · exact ⟨_, _, ⟨.cs, .inl rfl, rfl, rfl⟩, .inl h⟩
  · exact ⟨_, _, ⟨.cs, .inl rfl, rfl, rfl⟩, .inr h⟩
  · exact ⟨_, _, ⟨.dc, .inr (.inl rfl), rfl, rfl⟩, .inl h⟩
  · exact ⟨_, _, ⟨.dc, .inr (.inl rfl), rfl, rfl⟩, .inr h⟩
  · exact ⟨_, _, ⟨.wr, .inr (.inr rfl), rfl, rfl⟩, .inl h⟩
  · exact ⟨_, _, ⟨.wr, .inr (.inr rfl), rfl, rfl⟩, .inr h⟩

/-- A control pin is one of the staged pins. -/
theorem State.ControlPin.mem {n : Byte} {pol : Bool} (h : s.ControlPin n pol) :
    n ∈ s.stagedPins := by
  obtain ⟨r, -, rfl, -⟩ := h
  exact List.mem_map.2 ⟨_, Vector.mem_toList_iff.2 (Vector.getElem_mem _), rfl⟩

theorem State.stagedDataPins_inRange (h : s.configError = none) :
    ∀ n ∈ s.stagedDataPins, n.toNat < s.par.numPins := fun n hn =>
  (State.configError_eq_none.1 h).2.2.1 n (s.stagedDataPins_sublist.subset hn)

theorem buildLut_pairwise (p : Params) (pins : List Byte) :
    (buildLut p pins).Pairwise fun g h => g.grp < h.grp :=
  List.pairwise_map.2 (spannedGroups_pairwise p pins)

/-- Eight data pins span from one to eight groups. -/
theorem State.buildLut_length_range (s : State) :
    1 ≤ (buildLut s.par s.stagedDataPins).length ∧
      (buildLut s.par s.stagedDataPins).length ≤ 8 := by
  rw [buildLut_length]
  have hmem : pinGroup s.par (Spec.dataPin s 0) ∈ spannedGroups s.par s.stagedDataPins :=
    mem_spannedGroups.2 ⟨_, State.mem_stagedDataPins.2 ⟨0, rfl⟩, rfl⟩
  exact ⟨List.length_pos_of_mem hmem,
    (spannedGroups_length_le _ _).trans s.stagedDataPins_length.le⟩

theorem State.Inv.build (h : s.Inv) (hfatal : s.busFatal = false) (hc : s.configError = none) :
    (s.installBus s.stagedRegisterMap (buildLut s.par s.stagedDataPins)).Inv := by
  refine h.installBus hfatal s.buildLut_length_range (buildLut_pairwise ..)
    (fun g hg => buildLut_sound (State.stagedDataPins_inRange hc) hg) fun w hw => ?_
  obtain ⟨n, pol, hn, hw⟩ := State.mem_stagedRegisterMap_writes hw
  exact regmap_addr_mem h.legal ((State.configError_eq_none.1 hc).2.2.1 n hn.mem) hw

/-! ### TX writes GPIO registers (20 R56) -/

theorem dataWrite_addr_mem (hp : p.Legal) {g : LutGroup} (hg : g.grp < p.numGroups) {v : Byte}
    {w : GpioWrite} (hw : w ∈ dataWrite p v g) : w.addr ∈ p.gpioAddrs := by
  unfold dataWrite at hw
  cases hf : p.family with
  | pins16 =>
    simp only [hf, List.mem_singleton] at hw
    exact hw ▸ bsrrAddr_mem hp hf hg
  | pins32 =>
    simp only [hf, List.mem_cons, List.not_mem_nil, or_false] at hw
    obtain rfl | rfl := hw
    · exact setAddr_mem hp hf hg
    · exact clrAddr_mem hp hf hg

/-- A write of the bus: a control write of the RegisterMap or a data write of a spanned group. -/
def State.BusWrite (s : State) (w : GpioWrite) : Prop :=
  w ∈ s.ctl.writes ∨ ∃ g ∈ s.groups, ∃ v, w ∈ dataWrite s.par v g

theorem State.strobe_busWrite (s : State) (last : Option Byte) (v : Byte) :
    ∀ w ∈ s.strobe last v, s.BusWrite w := by
  intro w hw
  simp only [State.strobe, List.cons_append, List.mem_cons, List.mem_append, List.not_mem_nil,
    or_false] at hw
  obtain rfl | hw | rfl := hw
  · exact .inl (by simp [RegisterMap.writes])
  · split_ifs at hw with hlast
    · cases hw
    · obtain ⟨g, hg, hw⟩ := List.mem_flatMap.1 hw
      exact .inr ⟨g, List.mem_of_mem_take hg, v, hw⟩
  · exact .inl (by simp [RegisterMap.writes])

theorem State.strobes_busWrite (s : State) (last : Option Byte) (vs : List Byte) :
    ∀ w ∈ s.strobes last vs, s.BusWrite w := by
  induction vs generalizing last with
  | nil => simp
  | cons v vs ih =>
    intro w hw
    exact (List.mem_append.1 hw).elim (s.strobe_busWrite last v w) (ih (some v) w)

theorem State.commandPhase_busWrite (s : State) (cmd : Option Byte) :
    ∀ w ∈ s.commandPhase cmd, s.BusWrite w := by
  cases cmd with
  | none => simp [State.commandPhase]
  | some c =>
    intro w hw
    obtain rfl | hw := List.mem_cons.1 hw
    · exact .inl (by simp [RegisterMap.writes])
    · exact s.strobe_busWrite _ _ w hw

theorem State.dataPhase_busWrite (s : State) (last : Option Byte) (data : Option (List Byte)) :
    ∀ w ∈ s.dataPhase last data, s.BusWrite w := by
  cases data with
  | none => simp [State.dataPhase]
  | some bs =>
    intro w hw
    obtain rfl | hw := List.mem_cons.1 hw
    · exact .inl (by simp [RegisterMap.writes])
    · exact s.strobes_busWrite _ _ w hw

theorem State.transaction_busWrite (s : State) (cmd : Option Byte) (data : Option (List Byte)) :
    ∀ w ∈ s.transaction cmd data, s.BusWrite w := by
  intro w hw
  simp only [State.transaction, List.cons_append, List.mem_cons, List.mem_append, List.not_mem_nil,
    or_false] at hw
  obtain rfl | (hw | hw) | rfl := hw
  · exact .inl (by simp [RegisterMap.writes])
  · exact s.commandPhase_busWrite cmd w hw
  · exact s.dataPhase_busWrite _ data w hw
  · exact .inl (by simp [RegisterMap.writes])

theorem State.Inv.busWrite_addr_mem (h : s.Inv) (hready : s.busReady = true) {w : GpioWrite}
    (hw : s.BusWrite w) : w.addr ∈ s.par.gpioAddrs := by
  obtain hw | ⟨g, hg, v, hw⟩ := hw
  · exact h.control hready w hw
  · exact dataWrite_addr_mem h.legal (h.masks hready g hg).grp_lt hw

/-! ### Every command and every step keeps the invariant -/

theorem keptOffset_lt {ofs : Option Half} {vsa : Half} (o : Half)
    (h : keptOffset ofs vsa = some o) : o.toNat < vsa.toNat := by
  unfold keptOffset at h
  split at h
  · cases h
  · split_ifs at h with hout
    obtain rfl := Option.some.inj h
    omega

theorem State.Inv.window_le (h : s.Inv) : s.tfa.toNat + s.vsa.toNat ≤ s.par.h0 := by
  have := h.window
  omega

theorem State.Inv.answer {i : Instr} (h : s.Inv) (hans : Answer s i t) : t.Inv := by
  cases hans with
  | raised _ _ => exact h.raise _
  | rejected _ _ => exact h.killBus.raise _
  | pinsel role pol pin => exact (h.stagePin ..).complete
  | build hfatal hcheck => exact (h.build hfatal hcheck).complete
  | tx cmd data _ hready =>
    exact (h.emit hready (fun w hw =>
      h.busWrite_addr_mem hready (s.transaction_busWrite cmd data w hw)) _).complete
  | setrot _ => exact (h.rotateTo _).complete
  | getrot => exact (h.setResult _).complete
  | setwin hsum => exact (h.setWindow hsum keptOffset_lt).complete
  | setofs hin => exact (h.setOffset hin).complete
  | getofs => exact (h.setResult _).complete
  | regdev _ _ _ _ _ hfree =>
    exact ((h.setDevice (State.freeSlot_eq_some hfree).1 _).setResult _).complete
  | setxf _ _ hreg =>
    exact (h.setDevice (State.registeredDevice_eq_some.1 hreg).1 _).complete
  | xform _ _ _ => exact (h.setResult _).complete
  | mappt _ _ _ => exact (h.setResult _).complete
  | blit _ hw hh =>
    exact (h.setBacking (blitPixels_wf h.bbWf) (blitPixels_cells_lt hw hh h.bbSize)).complete
  | compose =>
    exact (h.setFrame (State.composed_wf h.pfWf) (State.composed_cells_lt h.window_le
      (State.scrollStart_lt_or_eq_zero h.offset) h.pfSize)).complete

/-- Settles O19: each state update of a step keeps the invariant. -/
theorem stepKeepsInvariant : Obligations.StepKeepsInvariant := by
  intro s t h hstep
  cases step_stepped hstep with
  | idle _ => exact h
  | held hf => exact h.hold hf
  | illegal hf => exact (h.consume hf).raise _
  | ran hf hans => exact (h.consume hf).answer hans

/-! ### The state after reset (70 R271) -/

theorem ofNat16_toNat {n : Nat} (h : n ≤ 65535) : (BitVec.ofNat 16 n).toNat = n :=
  Nat.mod_eq_of_lt (by omega)

/-- The extents of legal parameters fit their fields. -/
theorem extents_le {p : Params} (hp : p.inRange) :
    p.tfa0 ≤ 65535 ∧ p.vsa0 ≤ 65535 ∧ p.bfa0 ≤ 65535 ∧ p.tfa0 + p.vsa0 + p.bfa0 = p.h0 := by
  obtain ⟨-, -, ⟨-, hh⟩, -, -, hsum, -⟩ := hp
  exact ⟨by omega, by omega, by omega, hsum⟩

/-- The reset state, whatever writes the trace keeps, meets the invariant. -/
theorem State.Inv.resetOf_trace (hp : p.Legal) {ws : List GpioWrite}
    (hws : ∀ w ∈ ws, w.addr ∈ p.gpioAddrs) : State.Inv { State.resetOf p with trace := ws } where
  legal := hp
  window := by
    obtain ⟨ht, hv, hb, hsum⟩ := extents_le hp.1
    simpa only [State.resetOf, ofNat16_toNat ht, ofNat16_toNat hv, ofNat16_toNat hb] using hsum
  offset := nofun
  bus := nofun
  lastNone := fun _ => rfl
  ngRange := nofun
  ngGroups := nofun
  ascending := nofun
  masks := nofun
  control := nofun
  traced := hws
  bbWf := .nil
  bbSize := nofun
  pfWf := .nil
  pfSize := nofun
  slots := fun d _ => by simp [State.resetOf]
  pointer := le_rfl
  heldWords := rfl
  heldOpen := .inl rfl
  waitingHeld := by simp [State.resetOf]

theorem State.Inv.resetOf (hp : p.Legal) : (State.resetOf p).Inv :=
  .resetOf_trace (ws := []) hp nofun

theorem referenceParams_legal : referenceParams.Legal where
  left := by decide
  right := ⟨by decide, by simp [referenceParams, Params.gpioAddrs], by decide⟩

/-- Settles O18: the reference parameters are legal ones. -/
theorem resetMeetsInvariant : Obligations.ResetMeetsInvariant :=
  ⟨fun _ hp => .resetOf hp, .resetOf referenceParams_legal⟩

/-! ### Every reachable state (10 R38) -/

theorem State.Inv.platformReset (h : s.Inv) : s.platformReset.Inv :=
  .resetOf_trace h.legal h.traced

theorem State.Inv.resetDuring (h : s.Inv) (n : Nat) : (s.resetDuring n).Inv := by
  obtain ⟨t, ht⟩ := everyStepAnswersNext s
  have htraced := (stepKeepsInvariant s t h ht).traced
  have hpar := (stepMovesPointerByFetchedWords s t ht).2.1
  rw [hpar] at htraced
  exact .resetOf_trace h.legal fun w hw =>
    htraced w ((State.resetDuring_trace_prefix ht n).subset hw)

/-- A word more in the stream. -/
theorem State.Inv.appendWord (h : s.Inv) (v : Word) :
    State.Inv { s with stream := s.stream ++ [v] } :=
  { h with
    pointer := h.pointer.trans (by simp)
    heldWords := by rw [List.take_append_of_le_length h.pointer]; exact h.heldWords }

/-- A property that every step keeps is kept by a run. -/
theorem run_keeps (P : State → Prop) (hP : ∀ u v, P u → step u = .next v → P v) (k : Nat)
    (h : P s) (hrun : Sys2Proof.core.run k s = .next t) : P t := by
  induction k generalizing s with
  | zero =>
    rw [run_zero] at hrun
    injection hrun with hrun
    exact hrun ▸ h
  | succ k ih =>
    obtain ⟨u, hu⟩ := everyStepAnswersNext s
    exact ih (hP s u h hu) (run_succ k hu ▸ hrun)

theorem State.Inv.settle (h : s.Inv) (hs : s.settle = .next t) : t.Inv :=
  run_keeps State.Inv stepKeepsInvariant s.pending h hs

theorem State.Inv.hostWrite (h : s.Inv) {addr : Word} {width : Nat} {v : Word}
    (hw : Machine.hostWrite s addr width v = .next t) : t.Inv := by
  unfold Machine.hostWrite at hw
  split at hw
  · cases hw
  · split_ifs at hw
    · injection hw with hw
      exact hw ▸ h.appendWord v
    · split at hw
      · rename_i u hu
        injection hw with hw
        exact hw ▸ (h.settle hu).clearStatus v
      · cases hw
      · cases hw
    · injection hw with hw
      exact hw ▸ h

/-- Settles O20: by induction on how the state was reached. -/
theorem reachableStatesMeetInvariant : Obligations.ReachableStatesMeetInvariant := by
  intro p s hp hr
  induction hr with
  | reset => exact .resetOf hp
  | step _ hstep ih => exact stepKeepsInvariant _ _ ih hstep
  | write _ _ _ _ hw ih => exact ih.hostWrite hw
  | platformReset _ ih => exact ih.platformReset
  | resetDuring n _ ih => exact ih.resetDuring n

end Sys2Proof.Machine
end

section
/-! Proofs about the eliminator's invariant of 42 R149: whenever `LAST = v`, the data lines show
`v`. -/

namespace Sys2Proof.Machine

variable {s t : State} {p : Params}

/-! ### What the data pins of the spanned groups show -/

/-- The data pins of every spanned group are at the bits of `v`. -/
def State.Shows (s : State) (out : Latches) (v : Byte) : Prop :=
  ∀ g ∈ s.groups, out g.grp &&& g.full = (g.entry v).setMask

/-- The data pins show `LAST`, when it is a byte. -/
def State.ShowsLast (s : State) (out : Latches) (last : Option Byte) : Prop :=
  ∀ v, last = some v → s.Shows out v

theorem State.showsLast_some {out : Latches} {v : Byte} :
    s.ShowsLast out (some v) ↔ s.Shows out v :=
  ⟨fun h => h v rfl, fun h _ hu => Option.some.inj hu ▸ h⟩

/-- What 42 R149 claims of a state, by its latches. -/
theorem State.dataLinesShowLast_iff :
    s.DataLinesShowLast ↔ ∀ out, s.ShowsLast (portRun s.par out s.trace) s.last :=
  ⟨fun h out v hv g hg => h v hv g hg out, fun h v hv g hg out => h out v hv g hg⟩

/-- A control write keeps what the data pins show. -/
theorem State.ShowsLast.ctl {out : Latches} {last : Option Byte} (h : s.ShowsLast out last)
    (hspare : s.ControlSparesData) {w : GpioWrite} (hw : w ∈ s.ctl.writes) :
    s.ShowsLast (portWrite s.par out w) last := fun v hv g hg =>
  (hspare w hw g hg out).trans (h v hv g hg)

/-- The data writes of a byte make the data pins show it. -/
theorem State.shows_dataWrites (hinv : s.Inv) (hready : s.busReady = true) (out : Latches)
    (v : Byte) : s.Shows (portRun s.par out (s.dataWrites v)) v := by
  intro g hg
  have htake : s.groups.take s.ng = s.groups := by
    rw [← hinv.ngGroups hready, List.take_length]
  rw [State.dataWrites, htake, (portRun_dataWrites hinv.legal v (hinv.masks hready)
    (hinv.ascending hready) out).1 g hg]
  obtain ⟨hor, -⟩ := (hinv.masks hready g hg).entry v
  rw [← hor]
  generalize (g.entry v).setMask = m, (g.entry v).clrMask = k, out g.grp = o
  ext i hi
  simp only [BitVec.getElem_and, BitVec.getElem_or, BitVec.getElem_not]
  cases o[i] <;> cases m[i] <;> cases k[i] <;> rfl

section Transaction

variable (hinv : s.Inv) (hready : s.busReady = true) (hspare : s.ControlSparesData)
include hinv hready hspare

/-- A strobe ends with the data pins at its byte: it drives them, or `LAST` says they are there. -/
theorem State.ShowsLast.strobe {out : Latches} {last : Option Byte} (h : s.ShowsLast out last)
    (v : Byte) : s.ShowsLast (portRun s.par out (s.strobe last v)) (some v) := by
  have hdeact := h.ctl hspare (w := s.ctl.wr.deact) (by simp [RegisterMap.writes])
  rw [State.strobe, List.cons_append, portRun_cons, portRun_append]
  refine State.ShowsLast.ctl ?_ hspare (w := s.ctl.wr.act) (by simp [RegisterMap.writes])
  split_ifs with hlast
  · exact hlast ▸ hdeact
  · exact State.showsLast_some.2 (State.shows_dataWrites hinv hready _ v)

theorem State.ShowsLast.strobes {last : Option Byte} (vs : List Byte) {out : Latches}
    (h : s.ShowsLast out last) :
    s.ShowsLast (portRun s.par out (s.strobes last vs)) (lastAfter last vs) := by
  induction vs generalizing last out with
  | nil => exact h
  | cons v vs ih =>
    rw [State.strobes_cons, portRun_append, lastAfter_cons]
    exact ih (h.strobe hinv hready hspare v)

theorem State.ShowsLast.commandPhase {out : Latches} (h : s.ShowsLast out s.last)
    (cmd : Option Byte) :
    s.ShowsLast (portRun s.par out (s.commandPhase cmd)) (lastAfter s.last cmd.toList) := by
  cases cmd with
  | none => exact h
  | some c =>
    exact (h.ctl hspare (by simp [RegisterMap.writes])).strobe hinv hready hspare c

theorem State.ShowsLast.dataPhase {out : Latches} {last : Option Byte} (h : s.ShowsLast out last)
    (data : Option (List Byte)) :
    s.ShowsLast (portRun s.par out (s.dataPhase last data)) (lastAfter last (data.getD [])) := by
  cases data with
  | none => exact h
  | some bs =>
    exact (h.ctl hspare (by simp [RegisterMap.writes])).strobes hinv hready hspare bs

theorem State.ShowsLast.transaction {out : Latches} (h : s.ShowsLast out s.last)
    (cmd : Option Byte) (data : Option (List Byte)) :
    s.ShowsLast (portRun s.par out (s.transaction cmd data))
      (lastAfter s.last (cmd.toList ++ data.getD [])) := by
  rw [State.transaction, List.cons_append, List.cons_append, portRun_cons, portRun_append,
    portRun_append, lastAfter_append]
  have hstart := h.ctl hspare (w := s.ctl.cs.act) (by simp [RegisterMap.writes])
  exact ((hstart.commandPhase hinv hready hspare cmd).dataPhase hinv hready hspare data).ctl hspare
    (by simp [RegisterMap.writes])

end Transaction

/-! ### Control writes spare the data pins (42 R149) -/

/-- A control write of a pin changes no other bit of any latch. -/
theorem portWrite_regmap_getLsbD (hp : p.Legal) {n : Byte} (hn : n.toNat < p.numPins) {pol : Bool}
    {w : GpioWrite} (hw : w = (regmap p n pol).act ∨ w = (regmap p n pol).deact) (out : Latches)
    {k b : Nat} (hb : b < p.family.pins) (hne : pinGroup p n = k → pinBit p n ≠ b) :
    (portWrite p out w k).getLsbD b = (out k).getLsbD b := by
  have hg := pinGroup_lt_numGroups hn
  have hb32 : b < 32 := lt_of_lt_of_le hb p.family.pins_le
  obtain ⟨addr, value⟩ := w
  obtain ⟨hf, rfl, rfl | rfl⟩ | ⟨hf, rfl, hv⟩ := regmap_cases p n pol _ hw
  · rw [portWrite_set hp hf out hg]
    split_ifs with hk
    · simp only [BitVec.getLsbD_or, pinMask_getLsbD, hne hk.symm, decide_false, Bool.or_false]
    · rfl
  · rw [portWrite_clr hp hf out hg]
    split_ifs with hk
    · simp only [BitVec.getLsbD_and, BitVec.getLsbD_not, pinMask_getLsbD, hne hk.symm, hb32,
        decide_false, decide_true, Bool.not_false, Bool.and_true]
    · rfl
  · rw [portWrite_bsrr hp hf out hg]
    split_ifs with hk
    · have hbit := pinBit_lt p n
      rw [hf] at hb hbit
      simp only [PortFamily.pins] at hb hbit
      have hhigh : value.getLsbD (16 + b) = false := by
        obtain rfl | rfl := hv
        · simp only [pinMask_getLsbD, decide_eq_false_iff_not]; omega
        · simp [hne hk.symm]
      have hlow : value.getLsbD b = false := by
        obtain rfl | rfl := hv
        · simp only [pinMask_getLsbD, hne hk.symm, decide_false]
        · simp [hb]
      simp only [BitVec.getLsbD_or, BitVec.getLsbD_and, BitVec.getLsbD_not,
        BitVec.getLsbD_ushiftRight, hhigh, hlow, hb32, decide_true, Bool.not_false, Bool.and_true,
        Bool.false_and, Bool.or_false]
    · rfl

/-- A control pin is none of the data pins, when the staged pins are distinct. -/
theorem State.ControlPin.notMem_stagedDataPins {n : Byte} {pol : Bool} (h : s.ControlPin n pol)
    (hnd : s.stagedPins.Nodup) : n ∉ s.stagedDataPins := by
  obtain ⟨r, hr, rfl, -⟩ := h
  intro hmem
  obtain ⟨k, hk⟩ := State.mem_stagedDataPins.1 hmem
  have heq : r.index.val = k.val := by
    have := (List.Nodup.getElem_inj_iff hnd (i := r.index.val) (j := k.val)
      (hi := by simp [State.stagedPins]) (hj := by simp [State.stagedPins]; omega)).1
    apply this
    simpa [State.stagedPins, State.staged, Spec.dataPin] using hk
  obtain rfl | rfl | rfl := hr <;> simp [Role.index] at heq <;> omega

/-- After a successful BUILD no control write reaches a data pin: the control pins are other pins,
and each write carries the one bit of its pin. -/
theorem State.controlSparesData_build (hp : s.par.Legal) (hc : s.configError = none) :
    (s.installBus s.stagedRegisterMap (buildLut s.par s.stagedDataPins)).ControlSparesData := by
  intro w hw g hg out
  obtain ⟨-, -, hrange, hnd⟩ := State.configError_eq_none.1 hc
  obtain ⟨n, pol, hn, hw⟩ := State.mem_stagedRegisterMap_writes hw
  obtain ⟨m, -, rfl⟩ := mem_buildLut.1 hg
  apply BitVec.eq_of_getLsbD_eq
  intro b hb
  rw [BitVec.getLsbD_and, BitVec.getLsbD_and]
  cases hfull : (lutGroup s.par s.stagedDataPins (pinGroup s.par m)).full.getLsbD b with
  | false => rw [Bool.and_false, Bool.and_false]
  | true =>
    have hbit : b < s.par.family.pins := by
      by_contra hge
      have := getLsbD_of_lt (fullMask_lt s.par (pinGroup s.par m) s.stagedDataPins)
        (Nat.le_of_not_lt hge)
      exact Bool.noConfusion (this.symm.trans hfull)
    refine congrArg (· && true) (portWrite_regmap_getLsbD hp (hrange n hn.mem) hw out hbit ?_)
    rintro hgrp rfl
    refine hn.notMem_stagedDataPins hnd ((fullMask_getLsbD_pinBit s.par _ n).1 ?_)
    have hgrp' : pinGroup s.par n = pinGroup s.par m := hgrp
    exact hgrp'.symm ▸ hfull

/-! ### Every command and every step keeps the claim -/

/-- An update that leaves the bus, `LAST` and the trace keeps the claim. -/
theorem State.BusInv.of_bus_eq (h : s.BusInv) (ht : t.Inv) (hpar : t.par = s.par)
    (hready : t.busReady = s.busReady) (hctl : t.ctl = s.ctl) (hgroups : t.groups = s.groups)
    (hlast : t.last = s.last) (htrace : t.trace = s.trace) : t.BusInv where
  inv := ht
  control := by simpa only [State.ControlSparesData, hpar, hready, hctl, hgroups] using h.control
  lines := by
    simpa only [State.DataLinesShowLast, hpar, hready, hgroups, hlast, htrace] using h.lines

/-- A state without a bus makes no claim. -/
theorem State.BusInv.of_not_ready (h : t.Inv) (hready : t.busReady = false) : t.BusInv where
  inv := h
  control := fun hr => absurd (hready.symm.trans hr) (by decide)
  lines := fun hr => absurd (hready.symm.trans hr) (by decide)

theorem State.BusInv.tx (h : s.BusInv) (hready : s.busReady = true) (cmd : Option Byte)
    (data : Option (List Byte)) (ht : t.Inv)
    (heq : t = (s.emit (s.transaction cmd data)
      (lastAfter s.last (cmd.toList ++ data.getD []))).complete) : t.BusInv where
  inv := ht
  control := fun _ => heq ▸ h.control hready
  lines := fun _ => by
    subst heq
    rw [State.dataLinesShowLast_iff]
    intro out
    have hstart := State.dataLinesShowLast_iff.1 (h.lines hready) out
    have := hstart.transaction h.inv hready (h.control hready) cmd data
    rwa [← portRun_append] at this

theorem State.BusInv.answer {i : Instr} (h : s.BusInv) (hans : Answer s i t) : t.BusInv := by
  have ht := h.inv.answer hans
  cases hans with
  | rejected _ _ => exact .of_not_ready ht rfl
  | build _ hcheck =>
    exact ⟨ht, fun _ => State.controlSparesData_build h.inv.legal hcheck, fun _ => nofun⟩
  | tx cmd data _ hready => exact h.tx hready cmd data ht rfl
  | _ => exact h.of_bus_eq ht (by simp) (by simp) (by simp) (by simp) (by simp) (by simp)

/-- Settles O21: at reset there is no bus; BUILD forgets `LAST`, TX drives the data pins to every
byte it sets `LAST` to and its control writes spare them, and nothing else touches either. -/
theorem stepKeepsDataLinesAtLast : Obligations.StepKeepsDataLinesAtLast := by
  refine ⟨fun p hp => .of_not_ready (.resetOf hp) rfl, fun s t h hstep => ?_⟩
  have ht := stepKeepsInvariant s t h.inv hstep
  cases step_stepped hstep with
  | idle _ => exact h
  | held _ => exact h.of_bus_eq ht rfl rfl rfl rfl rfl rfl
  | illegal _ => exact h.of_bus_eq ht rfl rfl rfl rfl rfl rfl
  | ran hf hans =>
    exact (h.of_bus_eq (h.inv.consume hf) rfl rfl rfl rfl rfl rfl).answer hans

end Sys2Proof.Machine
end

section
/-! Proofs of families 41 and 42: what PINSEL, BUILD and TX answer (spec 41, 42). -/

namespace Sys2Proof.Machine

variable {s t : State}

/-! ### PINSEL (41 R111) -/

/-- Settles O22: the staged entry is the role's, and the command completes. -/
theorem pinselStagesOnePin : Obligations.PinselStagesOnePin := fun _ _ _ _ => rfl

/-! ### The checks of BUILD as conditions on the staging (41 R113) -/

theorem State.mem_stagedData {e : StageEntry} :
    e ∈ s.stagedData ↔ ∃ r : Fin 11, r.val < 8 ∧ s.stage[r.val] = e := by
  simp only [State.stagedData, List.mem_take_iff_getElem, Vector.length_toList,
    Vector.getElem_toList]
  exact ⟨fun ⟨i, hi, he⟩ => ⟨⟨i, by omega⟩, by simp; omega, he⟩,
    fun ⟨r, hr, he⟩ => ⟨r.val, by omega, he⟩⟩

theorem State.mem_stagedControl {e : StageEntry} :
    e ∈ s.stagedControl ↔ ∃ r : Fin 11, 8 ≤ r.val ∧ s.stage[r.val] = e := by
  simp only [State.stagedControl, List.mem_drop_iff_getElem, Vector.length_toList,
    Vector.getElem_toList]
  exact ⟨fun ⟨i, hi, he⟩ => ⟨⟨8 + i, by omega⟩, by simp, he⟩,
    fun ⟨r, hr, he⟩ => ⟨r.val - 8, by omega, by simpa [show 8 + (r.val - 8) = r.val by omega]⟩⟩

@[simp] theorem State.stagedPins_length (s : State) : s.stagedPins.length = 11 := by
  simp [State.stagedPins]

theorem State.stagedPins_getElem (s : State) (r : Fin 11) :
    s.stagedPins[r.val]'(by simp) = s.stage[r.val].pin := by simp [State.stagedPins]

theorem State.mem_stagedPins {n : Byte} :
    n ∈ s.stagedPins ↔ ∃ r : Fin 11, s.stage[r.val].pin = n := by
  constructor
  · intro h
    obtain ⟨k, hk, rfl⟩ := List.mem_iff_getElem.1 h
    have hk : k < 11 := by simpa using hk
    exact ⟨⟨k, hk⟩, (s.stagedPins_getElem ⟨k, hk⟩).symm⟩
  · rintro ⟨r, rfl⟩
    exact s.stagedPins_getElem r ▸ List.getElem_mem _

theorem State.busNotWide_iff :
    Spec.BusNotWide s ↔ (s.stagedData.any fun e => !e.valid) = true := by
  simp only [Spec.BusNotWide, List.any_eq_true, State.mem_stagedData, Bool.not_eq_true']
  exact ⟨fun ⟨r, hr, hv⟩ => ⟨_, ⟨r, hr, rfl⟩, hv⟩, fun ⟨_, ⟨r, hr, he⟩, hv⟩ => ⟨r, hr, he ▸ hv⟩⟩

theorem State.controlMissing_iff :
    Spec.ControlMissing s ↔ (s.stagedControl.any fun e => !e.valid) = true := by
  simp only [Spec.ControlMissing, List.any_eq_true, State.mem_stagedControl, Bool.not_eq_true']
  exact ⟨fun ⟨r, hr, hv⟩ => ⟨_, ⟨r, hr, rfl⟩, hv⟩, fun ⟨_, ⟨r, hr, he⟩, hv⟩ => ⟨r, hr, he ▸ hv⟩⟩

theorem State.pinOutOfRange_iff :
    Spec.PinOutOfRange s ↔
      (s.stagedPins.any fun n => decide (n.toNat ≥ s.par.numPins)) = true := by
  simp only [Spec.PinOutOfRange, List.any_eq_true, State.mem_stagedPins, decide_eq_true_eq]
  exact ⟨fun ⟨r, hr⟩ => ⟨_, ⟨r, rfl⟩, hr⟩, fun ⟨_, ⟨r, he⟩, hr⟩ => ⟨r, he ▸ hr⟩⟩

theorem State.pinTwice_iff : Spec.PinTwice s ↔ ¬s.stagedPins.Nodup := by
  constructor
  · rintro ⟨r, q, hne, hpin⟩ hnd
    rw [← s.stagedPins_getElem, ← s.stagedPins_getElem, hnd.getElem_inj_iff] at hpin
    exact hne (Fin.ext hpin)
  · intro hnd
    rw [List.nodup_iff_injective_getElem, Function.not_injective_iff] at hnd
    obtain ⟨⟨j, hj⟩, ⟨k, hk⟩, hpin, hne⟩ := hnd
    simp only [State.stagedPins_length] at hj hk
    refine ⟨⟨j, hj⟩, ⟨k, hk⟩, fun h => hne (Fin.ext (Fin.mk.inj h)), ?_⟩
    exact (s.stagedPins_getElem ⟨j, hj⟩).symm.trans (hpin.trans (s.stagedPins_getElem ⟨k, hk⟩))

/-- The first check that fails, in the order of 41 R115. -/
theorem State.configError_busWidth (h : Spec.BusNotWide s) :
    s.configError = some .configBusWidth := if_pos (State.busNotWide_iff.1 h)

theorem State.configError_missingControl (h1 : ¬Spec.BusNotWide s) (h2 : Spec.ControlMissing s) :
    s.configError = some .configMissingControl :=
  (if_neg (mt State.busNotWide_iff.2 h1)).trans (if_pos (State.controlMissing_iff.1 h2))

theorem State.configError_invalidPin (h1 : ¬Spec.BusNotWide s) (h2 : ¬Spec.ControlMissing s)
    (h3 : Spec.PinOutOfRange s) : s.configError = some .configInvalidPin :=
  ((if_neg (mt State.busNotWide_iff.2 h1)).trans (if_neg (mt State.controlMissing_iff.2 h2))).trans
    (if_pos (State.pinOutOfRange_iff.1 h3))

theorem State.configError_pins (h1 : ¬Spec.BusNotWide s) (h2 : ¬Spec.ControlMissing s)
    (h3 : ¬Spec.PinOutOfRange s) :
    s.configError = if s.stagedPins.Nodup then none else some .configDuplicatePin :=
  ((if_neg (mt State.busNotWide_iff.2 h1)).trans (if_neg (mt State.controlMissing_iff.2 h2))).trans
    (if_neg (mt State.pinOutOfRange_iff.2 h3))

/-! ### BUILD (41 R113, R114) -/

theorem execBuild_of_fatal (h : s.busFatal = true) : execBuild s = .next (s.raise .fatal) := by
  rw [execBuild, if_pos h]

theorem execBuild_of_error (hf : s.busFatal = false) {e : ErrCode} (h : s.configError = some e) :
    execBuild s = .next (s.killBus.raise e) := by
  simp only [execBuild, hf, h]; rfl

theorem execBuild_of_ok (hf : s.busFatal = false) (h : s.configError = none) :
    execBuild s = .next
      (s.installBus s.stagedRegisterMap (buildLut s.par s.stagedDataPins)).complete := by
  simp only [execBuild, hf, h]; rfl

/-- Settles O25: the code of the first failing check is that of `configError`. -/
theorem buildReportsFirstError : Obligations.BuildReportsFirstError := by
  refine fun s => ⟨fun hf => execBuild_of_fatal hf, fun hf => ⟨fun h1 => ?_, fun h1 h2 => ?_,
    fun h1 h2 h3 => ?_, fun h1 h2 h3 h4 => ?_⟩⟩
  · exact execBuild_of_error hf (State.configError_busWidth h1)
  · exact execBuild_of_error hf (State.configError_missingControl h1 h2)
  · exact execBuild_of_error hf (State.configError_invalidPin h1 h2 h3)
  · exact execBuild_of_error hf
      ((State.configError_pins h1 h2 h3).trans (if_neg (State.pinTwice_iff.1 h4)))

/-- The masks of the staged data pins, by role. -/
theorem State.groupMask_stagedDataPins_getLsbD (s : State) (g : Nat) (want : Nat → Bool) (b : Nat) :
    (groupMask s.par g want s.stagedDataPins).getLsbD b = true ↔
      ∃ r : Fin 8, want r.val = true ∧ pinGroup s.par (Spec.dataPin s r) = g ∧
        pinBit s.par (Spec.dataPin s r) = b := by
  rw [groupMask_getLsbD]
  simp only [State.stagedDataPins_length]
  constructor
  · rintro ⟨k, hk, h⟩
    rw [s.stagedDataPins_getElem ⟨k, hk⟩] at h
    exact ⟨⟨k, hk⟩, h⟩
  · rintro ⟨r, h⟩
    rw [← s.stagedDataPins_getElem r] at h
    exact ⟨r.val, r.isLt, h⟩

/-- The table of the staged data pins is the one 41 R118 constructs. -/
theorem State.isLut_buildLut (s : State) :
    Spec.IsLut s.par (Spec.dataPin s) (buildLut s.par s.stagedDataPins) := by
  refine ⟨buildLut_pairwise .., fun n => ?_, fun g hg => ?_⟩
  · constructor
    · rintro ⟨g, hg, rfl⟩
      obtain ⟨m, hm, rfl⟩ := mem_buildLut.1 hg
      obtain ⟨r, rfl⟩ := State.mem_stagedDataPins.1 hm
      exact ⟨r, rfl⟩
    · rintro ⟨r, rfl⟩
      exact ⟨_, mem_buildLut.2 ⟨_, State.mem_stagedDataPins.2 ⟨r, rfl⟩, rfl⟩, rfl⟩
  · obtain ⟨m, -, rfl⟩ := mem_buildLut.1 hg
    refine ⟨fun b => ?_, fun v => ⟨fun b => ?_, ?_⟩⟩
    · have := s.groupMask_stagedDataPins_getLsbD (pinGroup s.par m) (fun _ => true) b
      simp only [true_and] at this
      exact this
    · rw [lutGroup_entry]
      exact s.groupMask_stagedDataPins_getLsbD (pinGroup s.par m) (fun k => v.getLsbD k) b
    · rw [lutGroup_entry]; rfl

/-- Settles O24: with every check passed BUILD installs the table of the staged data pins. -/
theorem buildInstallsStagedPins : Obligations.BuildInstallsStagedPins := by
  intro s hf h1 h2 h3 h4
  have hnd : s.stagedPins.Nodup := not_not.1 (mt State.pinTwice_iff.2 h4)
  exact ⟨_, s.isLut_buildLut,
    execBuild_of_ok hf ((State.configError_pins h1 h2 h3).trans (if_pos hnd))⟩

/-! ### A dead bus (41 R114) -/

theorem execTx_of_fatal (h : s.busFatal = true) (cmd : Option Byte) (data : Option (List Byte)) :
    execTx cmd data s = .next (s.raise .fatal) := by rw [execTx, if_pos h]

theorem execTx_of_not_ready (hf : s.busFatal = false) (hr : s.busReady = false)
    (cmd : Option Byte) (data : Option (List Byte)) :
    execTx cmd data s = .next (s.raise .notConfigured) := by simp [execTx, hf, hr]

/-- Settles O29: `FATAL` is asked first. -/
theorem txWithoutBusFails : Obligations.TxWithoutBusFails :=
  fun cmd data _ => ⟨fun hf => execTx_of_fatal hf cmd data,
    fun hf hr => execTx_of_not_ready hf hr cmd data⟩

/-- On a dead bus no command brings the bus back or makes a GPIO write. -/
theorem Answer.of_dead {i : Instr} (h : Answer s i t) (hf : s.busFatal = true) :
    t.busFatal = true ∧ t.busReady = s.busReady ∧ t.trace = s.trace := by
  cases h with
  | rejected hfatal | build hfatal | tx _ _ hfatal => rw [hf] at hfatal; cases hfatal
  | _ => simpa using hf

/-- Settles O26: BUILD and TX raise `FATAL`, and no other command touches the bus. -/
theorem deadBusStaysDead : Obligations.DeadBusStaysDead := by
  refine fun s hf => ⟨execBuild_of_fatal hf, fun cmd data => execTx_of_fatal hf cmd data,
    fun t ht => ?_⟩
  cases step_stepped ht with
  | idle _ => exact ⟨hf, rfl, rfl⟩
  | held _ => exact ⟨hf, rfl, rfl⟩
  | illegal _ => exact ⟨hf, rfl, rfl⟩
  | ran _ hans => exact hans.of_dead hf

/-! ### TX write by write (42 R141, R145) -/

theorem datawrite_eq (s : State) (v : Byte) (x : Spec.Line) (i : Nat) :
    Spec.datawrite s v x i =
      { x with writes := x.writes ++ s.groups[i]?.toList.flatMap (dataWrite s.par v) } := by
  cases hg : s.groups[i]? with
  | none => simp [Spec.datawrite, hg]
  | some g => cases hf : s.par.family <;> simp [Spec.datawrite, Spec.ctl, dataWrite, hg, hf]

/-- `datawrite` of the first `n` groups, in order. -/
theorem foldl_datawrite (s : State) (v : Byte) (n : Nat) (x : Spec.Line) :
    (List.range n).foldl (Spec.datawrite s v) x =
      { x with writes := x.writes ++ (s.groups.take n).flatMap (dataWrite s.par v) } := by
  induction n with
  | zero => simp
  | succ n ih =>
    rw [List.range_succ, List.foldl_append, ih, List.foldl_cons, List.foldl_nil, datawrite_eq,
      List.take_add_one, List.flatMap_append, List.append_assoc]

theorem strobe_eq (s : State) (x : Spec.Line) (v : Byte) :
    Spec.strobe s x v = ⟨x.writes ++ s.strobe x.last v, some v⟩ := by
  obtain ⟨ws, last⟩ := x
  by_cases hlast : last = some v
  · subst hlast
    simp [Spec.strobe, State.strobe, Spec.ctl]
  · simp [Spec.strobe, State.strobe, Spec.ctl, hlast, foldl_datawrite, State.dataWrites]

theorem foldl_strobe (s : State) (vs : List Byte) (x : Spec.Line) :
    vs.foldl (Spec.strobe s) x = ⟨x.writes ++ s.strobes x.last vs, lastAfter x.last vs⟩ := by
  induction vs generalizing x with
  | nil => simp
  | cons v vs ih => simp [ih, strobe_eq]

/-- The pseudocode of TX makes the model's transaction. -/
theorem transmit_eq (s : State) (cmd : Option Byte) (data : Option (List Byte)) :
    Spec.transmit s cmd data =
      ⟨s.transaction cmd data, lastAfter s.last (cmd.toList ++ data.getD [])⟩ := by
  cases cmd <;> cases data <;>
    simp [Spec.transmit, Spec.ctl, State.transaction, State.commandPhase, State.dataPhase,
      strobe_eq, foldl_strobe]

/-- Settles O28: the writes and the `LAST` of the pseudocode are the model's. -/
theorem txMakesTheTransaction : Obligations.TxMakesTheTransaction := by
  intro cmd data s hf hr
  rw [exec_tx, execTx_of_busReady hf hr, transmit_eq]
  rfl

/-! ### The bound on the writes of a TX (70 R290) -/

theorem written_le_length (last : Option Byte) (vs : List Byte) :
    Spec.written last vs ≤ vs.length := by
  induction vs generalizing last with
  | nil => exact le_rfl
  | cons v vs ih =>
    have := ih (some v)
    rw [Spec.written, List.length_cons]
    split_ifs <;> omega

/-- Settles O31: the count of O30 at its largest, 65536 bytes none of which is elided, over eight
groups of two writes. -/
theorem txWritesAreBounded : Obligations.TxWritesAreBounded := by
  intro cmd data s t h hwf hexec
  obtain ⟨_, rfl⟩ | ⟨_, _, rfl⟩ | ⟨hf, hr, _⟩ := execTx_cases (exec_tx cmd data s ▸ hexec)
  · simp
  · simp
  · obtain ⟨u, hu, hcount⟩ := (txWriteCount cmd data s hf hr (h.ngGroups hr)).2
    obtain rfl : u = t := by
      rw [hexec] at hu
      injection hu with hu
      exact hu.symm
    have hng := (h.ngRange hr).2
    have hcmd : cmd.toList.length ≤ 1 := by cases cmd <;> simp
    have hdata : data.toList.length ≤ 1 := by cases data <;> simp
    have hlen := txLengthOk_iff.1 hwf
    have hwritten := written_le_length s.last (cmd.toList ++ data.getD [])
    rw [List.length_append] at hwritten hcount
    have hgroup : (if s.par.family = .pins32 then 2 else 1) * s.ng ≤ 16 := by
      split_ifs <;> omega
    have hall := Nat.mul_le_mul hgroup hwritten
    omega

end Sys2Proof.Machine
end

section
/-! Proofs of families 43, 44 and 45: what SETROT, GETROT, MAPPT, SETWIN, SETOFS, GETOFS, BLIT,
REGDEV, SETXF and XFORM answer (spec 43, 44, 45). -/

namespace Sys2Proof.Machine

variable {s t : State} {p : Params}

/-! ### Rotation index and degrees (10 R27) -/

theorem Rot.index_ofIndex (k : Fin 4) : (Rot.ofIndex k).index = k := by revert k; decide

/-- The index of a multiple of 90 is that of the degrees modulo 360. -/
theorem Rot.ofDegrees_degrees {d : Int} (h : d % 90 = 0) :
    ((Rot.ofDegrees d).degrees : Int) = d % 360 := by
  rw [Rot.degrees, Rot.ofDegrees, Rot.index_ofIndex, Fin.val_ofNat]
  omega

/-- A rotation's own degrees give it back. -/
theorem Rot.ofDegrees_of_emod {d : Int} {r : Rot} (h : d % 360 = (r.degrees : Int)) :
    Rot.ofDegrees d = r := by
  rw [Rot.ofDegrees, h]
  cases r <;> rfl

/-! ### SETROT (43 R171 to R178) -/

theorem execSetrot_of_turn {imm : BitVec 28} (h : imm.toInt % 90 = 0) :
    execSetrot imm s = .next (s.rotateTo (Rot.ofDegrees imm.toInt)).complete :=
  if_neg (not_not.2 h)

/-- A rotation changes `ROT` and `BB` only. -/
theorem State.rotateTo_eq (s : State) (n : Rot) :
    s.rotateTo n = { s with rot := n, bb := (s.rotateTo n).bb } := by
  obtain ⟨rfl, hsame⟩ | ⟨-, hrebuilt⟩ := s.rotateTo_cases n
  · rw [hsame]
  · rw [hrebuilt]; rfl

theorem State.rotateTo_bb_of_ne {n : Rot} (h : n ≠ s.rot) :
    (s.rotateTo n).bb = rebuild s.par s.bb s.rot n := by rw [State.rotateTo, if_neg h]; rfl

theorem State.rotateTo_same (s : State) : s.rotateTo s.rot = s := if_pos rfl

/-- A rebuilt buffer holds nothing beyond its size. -/
theorem rebuild_read_beyond (p : Params) (old : Memory) (m n : Rot) {a : Nat}
    (ha : logicalWidth p n * logicalHeight p n * p.bytesPerPixel ≤ a) :
    (rebuild p old m n).read a = none := Memory.read_eq_none (rebuild_cells_lt p old m n) ha

/-- Settles O33: the buffer is the rebuilt one where the index changes. -/
theorem setrotRotatesAndRebuilds : Obligations.SetrotRotatesAndRebuilds := by
  intro imm s h
  refine ⟨Rot.ofDegrees imm.toInt, (s.rotateTo (Rot.ofDegrees imm.toInt)).bb,
    Rot.ofDegrees_degrees h, ?_, fun hsame => ?_, fun hne => ?_⟩
  · rw [exec_setrot, execSetrot_of_turn h, State.rotateTo_eq]; rfl
  · rw [hsame, State.rotateTo_same]
  · rw [State.rotateTo_bb_of_ne hne]
    exact ⟨fun x y j hx hy hj => rebuild_read s.bb s.rot _ hx hy hj,
      fun a ha => rebuild_read_beyond s.par s.bb s.rot _ ha⟩

/-- Settles O34: the degrees are checked before anything changes. -/
theorem setrotRejectsOddAngles : Obligations.SetrotRejectsOddAngles := fun _ _ h => if_pos h

/-- Every offset below the size of a buffer is a byte of one of its pixels. -/
theorem exists_pixel_of_lt {w h b a : Nat} (ha : a < w * h * b) :
    ∃ x y j, x < w ∧ y < h ∧ j < b ∧ a = pixelOffset w b x y + j := by
  have hw : 0 < w := Nat.pos_of_ne_zero fun h0 => by simp [h0] at ha
  have hb : 0 < b := Nat.pos_of_ne_zero fun h0 => by simp [h0] at ha
  obtain ⟨x, y, j, hx, hj, rfl⟩ := exists_pixelOffset hw hb a
  refine ⟨x, y, j, hx, ?_, hj, rfl⟩
  by_contra hy
  have hrow : w * h ≤ y * w + x := by
    have := Nat.mul_le_mul_left w (Nat.le_of_not_lt hy)
    rw [Nat.mul_comm y w]
    omega
  have := Nat.mul_le_mul_right b hrow
  unfold pixelOffset at ha
  omega

/-- Rebuilding there and back gives the buffer again: each pixel goes through its physical point,
and a canonical bounded buffer is what it reads at its pixels. -/
theorem rebuild_rebuild {bb : Memory} {m : Rot} (n : Rot) (hwf : bb.wf)
    (hsize : bb.within (logicalWidth p m * logicalHeight p m * p.bytesPerPixel)) :
    rebuild p (rebuild p bb m n) n m = bb := by
  refine Memory.ext_read (rebuild_wf ..) hwf fun a => ?_
  by_cases ha : a < logicalWidth p m * logicalHeight p m * p.bytesPerPixel
  · obtain ⟨x, y, j, hx, hy, hj, rfl⟩ := exists_pixel_of_lt ha
    obtain ⟨hpx, hpy⟩ := toPhysical_lt (q := (x, y)) hx hy
    obtain ⟨hlx, hly⟩ := toLogical_lt (n := n) hpx hpy
    rw [rebuild_read _ n m hx hy hj, rebuild_read bb m n hlx hly hj, Prod.mk.eta,
      toPhysical_toLogical hpx hpy, toLogical_toPhysical hx hy]
  · rw [rebuild_read_beyond _ _ _ _ (not_lt.1 ha), Memory.read_eq_none hsize (not_lt.1 ha)]

/-- A change of rotation and a change back leave the state. -/
theorem State.rotateTo_rotateTo (h : s.Inv) (n : Rot) : (s.rotateTo n).rotateTo s.rot = s := by
  obtain ⟨rfl, hsame⟩ | ⟨hne, hrebuilt⟩ := s.rotateTo_cases n
  · rw [hsame, hsame]
  · rw [hrebuilt, State.rotateTo, State.setRotation_rot, if_neg (Ne.symm hne)]
    have hbb := rebuild_rebuild (p := s.par) n h.bbWf h.bbSize
    simp only [State.setRotation] at hbb ⊢
    rw [hbb]

theorem State.complete_rotateTo (s : State) (n : Rot) :
    s.complete.rotateTo n = (s.rotateTo n).complete := by
  rw [State.rotateTo, State.rotateTo, State.complete_rot]
  split_ifs <;> rfl

/-- Settles O36: SETROT back is a change of rotation back, and completing changes no more than
`LAST_ERR`. -/
theorem rotationRoundTripRestores : Obligations.RotationRoundTripRestores := by
  intro there back s t u h hthere hok hback hu
  have hturn : back.toInt % 90 = 0 := by
    rw [Rot.degrees] at hback
    omega
  obtain ⟨_, rfl⟩ | ⟨_, rfl⟩ := execSetrot_cases (exec_setrot there s ▸ hthere)
  · cases hok
  · rw [exec_setrot, execSetrot_of_turn hturn, Rot.ofDegrees_of_emod hback] at hu
    injection hu with hu
    rw [← hu, State.complete_rotateTo, State.rotateTo_rotateTo h]
    rfl

/-! ### GETROT, MAPPT (43 R175, R177) -/

/-- GETROT leaves the word of the degrees. -/
theorem exec_getrot_eq {v : Word} (h : BitVec.ofNat 32 s.rot.degrees = v) :
    exec .getrot s = .next { s with result := v, lastErr := .ok } := h ▸ rfl

/-- Settles O37: the four rotations in degrees. -/
theorem getrotReadsDegrees : Obligations.GetrotReadsDegrees :=
  fun s => exec_getrot_eq (by cases s.rot <;> rfl)

/-- Settles O38: the physical point lies on the panel, so both coordinates fit their halves. -/
theorem mapptGivesPhysicalPoint : Obligations.MapptGivesPhysicalPoint := by
  intro lx ly s hp hx hy
  obtain ⟨hpx, hpy⟩ := toPhysical_lt (n := s.rot) (q := (lx.toNat, ly.toNat)) hx hy
  obtain ⟨-, ⟨-, hw⟩, ⟨-, hh⟩, -⟩ := hp
  refine ⟨_, if_neg (by omega), ?_, ?_⟩
  · rw [State.setResult_result, pointWord_high, ofNat16_toNat (by omega)]
  · rw [State.setResult_result, pointWord_low, ofNat16_toNat (by omega)]

/-- Settles O39: the point is checked before anything changes. -/
theorem mapptRejectsOutside : Obligations.MapptRejectsOutside := fun _ _ _ h => if_pos h

/-! ### SETWIN, SETOFS, GETOFS (44 R191 to R195) -/

theorem keptOffset_eq_filter (ofs : Option Half) (vsa : Half) :
    keptOffset ofs vsa = ofs.filter fun o => decide (o.toNat < vsa.toNat) := by
  cases ofs with
  | none => rfl
  | some o => by_cases h : o.toNat < vsa.toNat <;> simp [keptOffset, Option.filter, h]

/-- Settles O40: the kept offset is the old one where it is below the new `VSA`. -/
theorem setwinSetsWindow : Obligations.SetwinSetsWindow := by
  intro tfa vsa bfa s h
  rw [← keptOffset_eq_filter]
  exact if_neg (not_not.2 h)

/-- Settles O41: the sum is compared over the naturals, so it does not wrap. -/
theorem setwinRejectsWrongSum : Obligations.SetwinRejectsWrongSum := fun _ _ _ _ h => if_pos h

/-- Settles O42: the two clauses are the two sides of the comparison with `VSA`. -/
theorem setofsSetsOrRejects : Obligations.SetofsSetsOrRejects :=
  fun _ => ⟨rfl, fun _ => ⟨fun h => if_neg (not_le.2 h), fun h => if_pos h⟩⟩

/-- GETOFS leaves the word of the offset. -/
theorem exec_getofs_eq {v : Word} (h : offsetWord s.ofs = v) :
    exec .getofs s = .next { s with result := v, lastErr := .ok } := h ▸ rfl

/-- Settles O43: the word of an offset is the offset widened. -/
theorem getofsReadsOffset : Obligations.GetofsReadsOffset := by
  refine fun s => exec_getofs_eq ?_
  cases s.ofs with
  | none => rfl
  | some o => exact (BitVec.ofNat_toNat 32 o).symm

/-! ### BLIT (44 R197) -/

/-- Settles O44: each byte of a pixel of the rectangle has its place in the payload. -/
theorem blitWritesRectangle : Obligations.BlitWritesRectangle := by
  intro bx bY bw bh bytes s hw hh hlen
  refine ⟨blitPixels s.par.bytesPerPixel s.lw bx.toNat bY.toNat bw.toNat bh.toNat bytes s.bb,
    ?_, fun i j k hi hj hk => ?_, fun a ha => blitPixels_read_outside bytes s.bb ha⟩
  · exact (if_neg (by omega)).trans (if_neg (not_not.2 hlen))
  · have hpos := pixelOffset_add_le (b := s.par.bytesPerPixel) hi hj
    unfold pixelOffset at hpos
    rw [blitPixels_read bytes s.bb hi hj hk hw, List.getD_eq_getElem?_getD,
      List.getElem?_eq_getElem (by omega)]
    exact ⟨rfl, rfl⟩

/-- Settles O45: the rectangle's check comes first. -/
theorem blitRejectsBadRectangle : Obligations.BlitRejectsBadRectangle := by
  refine fun bx bY bw bh bytes s => ⟨fun h => if_pos h, fun hw hh hlen => ?_⟩
  exact (if_neg (by omega)).trans (if_pos hlen)

/-! ### REGDEV (45 R221) -/

theorem State.freeSlot_eq_of_lowest {d : Fin 16} (hd : d.val < s.par.numDevices)
    (hfree : s.devices[d.val].valid = false)
    (hlow : ∀ e : Fin 16, e.val < d.val → s.devices[e.val].valid = true) :
    s.freeSlot = some d := by
  refine List.find?_eq_some_iff_getElem.2 ⟨by simp [hd, hfree], d.val, by simp, by simp, ?_⟩
  intro j hj
  have := hlow ⟨j, by omega⟩ hj
  simp [this]

theorem setIfInBounds_eq_set {α : Type} {n : Nat} (v : Vector α n) {k : Nat} (hk : k < n) (a : α) :
    v.setIfInBounds k a = v.set k a :=
  Vector.ext fun i hi => by rw [Vector.getElem_setIfInBounds, Vector.getElem_set]

/-- Settles O49: the lowest free slot is the one REGDEV looks for. -/
theorem regdevFillsLowestFreeSlot : Obligations.RegdevFillsLowestFreeSlot := by
  intro cap t0 t1 t2 t3 s d hd hfree hlow
  have hslot := State.freeSlot_eq_of_lowest hd hfree hlow
  rw [← setIfInBounds_eq_set]
  simp only [exec, execRegdev, hslot]
  rfl

/-- Settles O50: no slot is free. -/
theorem regdevRejectsFullTable : Obligations.RegdevRejectsFullTable := by
  intro cap t0 t1 t2 t3 s hfull
  have hslot : s.freeSlot = none := by
    refine List.find?_eq_none.2 fun d _ => ?_
    by_cases hd : d.val < s.par.numDevices
    · simp [hfull d hd]
    · simp [hd]
  simp only [exec, execRegdev, hslot]
  rfl

/-! ### SETXF, XFORM (45 R223, R225) -/

/-- Settles O51: the table with one entry set. -/
theorem setxfReplacesOneEntry : Obligations.SetxfReplacesOneEntry := by
  intro dev idx xf s hdev hvalid
  have hreg := State.registeredDevice_eq_some.2 ⟨hdev, hvalid, rfl⟩
  refine ⟨s.devices[dev.toNat].xf.set idx.toNat xf, ?_, fun k hk => ?_, ?_⟩
  · rw [Vector.getElem_set_self]
  · rw [Vector.getElem_set_ne _ _ (Ne.symm hk)]
  · rw [← setIfInBounds_eq_set, ← hvalid]
    simp only [exec, execSetxf, hreg]
    rfl

/-- Settles O52: no such device is registered. -/
theorem unregisteredDeviceIsRejected : Obligations.UnregisteredDeviceIsRejected := by
  intro dev s h
  have hreg := State.registeredDevice_eq_none.2 h
  constructor
  · intro idx xf
    simp only [exec, execSetxf, hreg]
    rfl
  · intro x y
    simp only [exec, execXform, hreg]
    rfl

/-- A transform by its coordinates: each is chosen by SWAP and then reversed by its own bit. -/
theorem applyTransform_eq (lw lh : Nat) (xf : BitVec 3) (x y : Int) :
    applyTransform lw lh xf x y =
      (if xf.getLsbD 1 then (lw : Int) - 1 - (if xf.getLsbD 2 then y else x)
        else if xf.getLsbD 2 then y else x,
      if xf.getLsbD 0 then (lh : Int) - 1 - (if xf.getLsbD 2 then x else y)
        else if xf.getLsbD 2 then x else y) := by
  unfold applyTransform xfSwap xfRevX xfRevY
  cases xf.getLsbD 2 <;> rfl

/-- Settles O53: `RESULT` is the word of the transformed sample, coordinate by coordinate. -/
theorem xformAppliesCurrentCode : Obligations.XformAppliesCurrentCode := by
  intro dev x y s hdev hvalid
  have hreg := State.registeredDevice_eq_some.2 ⟨hdev, hvalid, rfl⟩
  rw [exec_xform, execXform_of_registered hreg, applyTransform_eq]
  rfl

end Sys2Proof.Machine
end

section
/-! Proofs of families 00, 10 and 70: instantiation, the platform's reset and the host window
(spec 00 R7, 10 R34 to R37, 70 R270 to R272). -/

namespace Sys2Proof.Machine

variable {s t : State} {p : Params}

/-- Settles O55: `instantiate` asks for `Params.Legal`. -/
theorem illegalParamsAreRefused : Obligations.IllegalParamsAreRefused :=
  fun _ => ⟨fun h => if_pos h, fun h => if_neg h⟩

/-! ### Reset (70 R270, R271) -/

theorem State.resetOf_rot (p : Params) : (State.resetOf p).rot = Rot.ofDegrees p.rot0 := rfl

/-- The window after reset is the parameters' own, which fit their fields. -/
theorem State.resetOf_window (hp : p.inRange) :
    (State.resetOf p).tfa.toNat = p.tfa0 ∧ (State.resetOf p).vsa.toNat = p.vsa0 ∧
      (State.resetOf p).bfa.toNat = p.bfa0 := by
  obtain ⟨ht, hv, hb, -⟩ := extents_le hp
  exact ⟨ofNat16_toNat ht, ofNat16_toNat hv, ofNat16_toNat hb⟩

theorem State.resetOf_device (p : Params) (d : Fin 16) :
    (State.resetOf p).devices[d.val] = ⟨false, .pointer, Vector.replicate 4 0⟩ := by
  simp [State.resetOf]

/-- Settles O56: every field is that of `resetOf`, and the writes of a command cut off are a
beginning of those its step makes. -/
theorem resetGivesSpecValues : Obligations.ResetGivesSpecValues := by
  intro s
  refine ⟨rfl, rfl, rfl, rfl, fun r => ?_, rfl, rfl, rfl, rfl, Rot.ofDegrees_degrees,
    State.resetOf_window, rfl, fun d => ?_, rfl, rfl, rfl, rfl, fun _ => rfl, fun _ => rfl, rfl,
    fun n => ⟨s.nextWrites.take n, s.resetDuring_eq n, fun u hu => ⟨?_, ?_⟩⟩⟩
  · simp [State.platformReset, State.resetOf]
  · have hd : s.platformReset.devices[d.val] = _ := State.resetOf_device s.par d
    rw [hd]
    exact ⟨rfl, rfl, fun k => by simp⟩
  · exact State.resetDuring_trace_prefix hu n
  · rw [step_trace hu, List.length_take, List.length_append, Nat.add_sub_cancel_left]

/-! ### The registers as sums of their fields (10 R34) -/

theorem ErrCode.code_toNat (e : ErrCode) : e.code.toNat = Spec.codeOf e := by cases e <;> rfl

theorem toNat_ofBool (b : Bool) : (BitVec.ofBool b).toNat = if b then 1 else 0 := by cases b <;> rfl

/-- A concatenation of fields is the word of a sum that is the sum of the fields. -/
theorem asWord_eq_ofNat {w k : Nat} {x : BitVec w} {h : w = 32} (hx : x.toNat = k) :
    asWord x h = BitVec.ofNat 32 k := by
  subst h
  rw [← hx, BitVec.ofNat_toNat, BitVec.setWidth_eq]
  rfl

theorem State.statusWord_eq (s : State) :
    s.statusWord = BitVec.ofNat 32
      (Spec.codeOf s.lastErr + (if s.anyErr then 16 else 0) + (if s.waiting then 32 else 0)) := by
  refine asWord_eq_ofNat ?_
  simp only [toNat_append_add, toNat_ofBool, ErrCode.code_toNat, BitVec.toNat_ofNat]
  split_ifs <;> omega

theorem State.configWord_eq (hp : s.par.inRange) :
    s.configWord = BitVec.ofNat 32 (Spec.config s.par) := by
  obtain ⟨⟨-, hpins⟩, -, -, hbpp, -, -, ⟨-, hdev⟩, -⟩ := hp
  refine asWord_eq_ofNat ?_
  simp only [toNat_append_add, toNat_ofBool, BitVec.toNat_ofNat, Spec.config, decide_eq_true_eq]
  split_ifs <;> omega

theorem State.busWord_eq (hng : s.ng ≤ 8) :
    s.busWord = BitVec.ofNat 32
      ((if s.busReady then 1 else 0) + (if s.busFatal then 2 else 0) +
        (if s.last = none then 0 else 4) + 16 * s.ng + 256 * (s.last.getD 0).toNat) := by
  refine asWord_eq_ofNat ?_
  simp only [toNat_append_add, toNat_ofBool, BitVec.toNat_ofNat]
  cases s.last with
  | none =>
    simp only [Option.isSome_none, Bool.false_eq_true, if_true, if_false]
    split_ifs <;> omega
  | some v =>
    simp only [Option.isSome_some, reduceCtorEq, if_true, if_false]
    split_ifs <;> omega

theorem logicalSize_lt (hp : p.inRange) (r : Rot) :
    logicalWidth p r < 65536 ∧ logicalHeight p r < 65536 := by
  obtain ⟨-, ⟨-, hw⟩, ⟨-, hh⟩, -⟩ := hp
  cases r <;> simp only [logicalWidth, logicalHeight] <;> omega

theorem State.geomWord_eq (hp : s.par.inRange) :
    s.geomWord = BitVec.ofNat 32 (65536 * s.lw + s.lh) := by
  obtain ⟨hw, hh⟩ : s.lw < 65536 ∧ s.lh < 65536 := logicalSize_lt hp s.rot
  refine asWord_eq_ofNat ?_
  rw [toNat_append_add, ofNat16_toNat (Nat.le_of_lt_succ hw), ofNat16_toNat (Nat.le_of_lt_succ hh)]
  omega

theorem State.rotWord_eq (s : State) : s.rotWord = BitVec.ofNat 32 (s.rot.degrees / 90) := by
  rw [State.rotWord, Rot.degrees, Nat.mul_div_cancel_left _ (by decide)]

theorem State.win0Word_eq (s : State) :
    s.win0Word = BitVec.ofNat 32 (65536 * s.tfa.toNat + s.vsa.toNat) := by
  refine asWord_eq_ofNat ?_
  rw [toNat_append_add]
  omega

theorem State.win1Word_eq (s : State) : s.win1Word = BitVec.ofNat 32 s.bfa.toNat := by
  refine asWord_eq_ofNat ?_
  rw [toNat_append_add]
  simp

/-- `OFSR` as the spec's number: bit 16 for `DISABLED`, else the offset. -/
theorem State.ofsWord_eq {n : Nat} (hnone : s.ofs = none → n = 65536)
    (hsome : ∀ o, s.ofs = some o → n = o.toNat) : s.ofsWord = BitVec.ofNat 32 n := by
  refine asWord_eq_ofNat ?_
  cases ho : s.ofs with
  | none => rw [hnone ho]; rfl
  | some o => rw [hsome o ho, toNat_append_add, toNat_append_add]; simp

theorem State.deviceCount_eq (s : State) :
    s.deviceCount = ((List.finRange 16).filter fun d =>
      decide (d.val < s.par.numDevices) && s.devices[d.val].valid).length :=
  List.countP_eq_length_filter

/-- Each entry of the sixteen registers is a register's offset and its word. -/
theorem register_of_mem_windowReads (hp : t.par.inRange) (hng : t.ng ≤ 8) {r : Nat × Nat}
    (hr : r ∈ Spec.windowReads t) :
    ∃ k < 16, r.1 = 4 * k ∧ t.register r.1 = BitVec.ofNat 32 r.2 := by
  simp only [Spec.windowReads, List.mem_cons, List.not_mem_nil, or_false] at hr
  obtain rfl | rfl | rfl | rfl | rfl | rfl | rfl | rfl | rfl | rfl | rfl | rfl | rfl | rfl | rfl |
    rfl := hr
  · exact ⟨0, by decide, rfl, rfl⟩
  · exact ⟨1, by decide, rfl, t.statusWord_eq⟩
  · exact ⟨2, by decide, rfl, (BitVec.ofNat_toNat 32 t.result).symm⟩
  · exact ⟨3, by decide, rfl, State.configWord_eq hp⟩
  · exact ⟨4, by decide, rfl, State.busWord_eq hng⟩
  · exact ⟨5, by decide, rfl, State.geomWord_eq hp⟩
  · exact ⟨6, by decide, rfl, t.rotWord_eq⟩
  · exact ⟨7, by decide, rfl, t.win0Word_eq⟩
  · exact ⟨8, by decide, rfl, t.win1Word_eq⟩
  · exact ⟨9, by decide, rfl, State.ofsWord_eq (fun h => by rw [h]) (fun o h => by rw [h])⟩
  · exact ⟨10, by decide, rfl, congrArg (BitVec.ofNat 32) t.deviceCount_eq⟩
  · exact ⟨11, by decide, rfl, rfl⟩
  · exact ⟨12, by decide, rfl, rfl⟩
  · exact ⟨13, by decide, rfl, rfl⟩
  · exact ⟨14, by decide, rfl, rfl⟩
  · exact ⟨15, by decide, rfl, rfl⟩

/-! ### Host reads (10 R35, R37) -/

/-- A read of the block's register `k` settles and answers that register. -/
theorem hostRead_register (hp : s.par.Legal) (hs : s.settle = .next t) {k : Nat} (hk : k < 16) :
    hostRead s (Spec.windowAddr s (4 * k)) 4 = .next (t, t.register (4 * k)) := by
  simp only [hostRead, Spec.windowAddr, windowOffset_register hp hk, hs]

/-- Settling leaves the parameters. -/
theorem State.settle_par (hs : s.settle = .next t) : t.par = s.par :=
  run_keeps (fun u => u.par = s.par)
    (fun u v hu huv => (stepMovesPointerByFetchedWords u v huv).2.1.trans hu) s.pending rfl hs

theorem hostRead_of_mem_windowReads (hp : s.par.Legal) (hs : s.settle = .next t) (hng : t.ng ≤ 8)
    {r : Nat × Nat} (hr : r ∈ Spec.windowReads t) :
    hostRead s (Spec.windowAddr s r.1) 4 = .next (t, BitVec.ofNat 32 r.2) := by
  obtain ⟨k, hk, hoff, hword⟩ :=
    register_of_mem_windowReads (State.settle_par hs ▸ hp.1) hng hr
  rw [← hword, hoff]
  exact hostRead_register hp hs hk

/-- The logical width and height after reset, by the initial rotation. -/
theorem resetOf_geometry (hp : p.inRange) :
    65536 * (State.resetOf p).lw + (State.resetOf p).lh =
      if (p.rot0 % 360) / 90 = 1 ∨ (p.rot0 % 360) / 90 = 3 then 2 ^ 16 * p.h0 + p.w0
      else 2 ^ 16 * p.w0 + p.h0 := by
  have hrot := Rot.ofDegrees_degrees hp.2.2.2.2.1
  simp only [State.lw, State.lh, State.resetOf_rot]
  generalize Rot.ofDegrees p.rot0 = r at hrot
  rw [← hrot]
  cases r <;> rfl

/-- What the window reads after reset is what it reads of the reset state. -/
theorem resetReads_eq (hp : p.inRange) :
    Spec.resetReads p = Spec.windowReads (State.resetOf p) := by
  have hrot : (p.rot0 % 360 / 90).toNat = (State.resetOf p).rot.degrees / 90 := by
    have := Rot.ofDegrees_degrees hp.2.2.2.2.1
    rw [State.resetOf_rot]
    omega
  obtain ⟨htfa, hvsa, hbfa⟩ := State.resetOf_window hp
  have hcount : ((List.finRange 16).filter fun d =>
      decide (d.val < (State.resetOf p).par.numDevices) &&
        (State.resetOf p).devices[d.val].valid) = [] := by
    rw [List.filter_eq_nil_iff]
    intro d _
    rw [State.resetOf_device]
    simp
  rw [Spec.resetReads, Spec.windowReads, hcount, htfa, hvsa, hbfa, resetOf_geometry hp, hrot]
  rfl

/-- Settles O57: each register is the sum of its fields in the settled state, and the reset state is
settled. -/
theorem windowReadsRegisters : Obligations.WindowReadsRegisters := by
  refine ⟨fun s t hp hs hng r hr => hostRead_of_mem_windowReads hp hs hng hr, fun p hp r hr => ?_⟩
  rw [resetReads_eq hp.1] at hr
  exact hostRead_of_mem_windowReads (s := State.resetOf p) hp (settle_of_idle rfl le_rfl)
    (Nat.zero_le 8) hr

/-! ### Host writes (10 R36, R37) -/

theorem windowOffset_windowAddr (hp : s.par.Legal) {k : Nat} (hk : k < 16) :
    windowOffset s.par (Spec.windowAddr s (4 * k)) 4 = .ok (4 * k) := windowOffset_register hp hk

/-- The clear of a `STATUS` write, by bit 4 as a number. -/
theorem State.clearStatus_eq (s : State) (v : Word) :
    s.clearStatus v = { s with anyErr := if v.toNat / 16 % 2 = 1 then false else s.anyErr } := by
  have hbit := getLsbD_eq_true_iff v 4
  unfold State.clearStatus
  congr 1
  split_ifs with h
  · rw [hbit.2 h, Bool.not_true, Bool.and_false]
  · rw [(Bool.not_eq_true _).mp (mt hbit.1 h), Bool.not_false, Bool.and_true]

/-- Settles O59: the write settles and then clears, and an idle block is settled. -/
theorem statusWriteClearsStickyError : Obligations.StatusWriteClearsStickyError := by
  intro s t v hp hs
  constructor
  · rw [← State.clearStatus_eq]
    simp only [hostWrite, windowOffset_windowAddr hp (k := 1) (by decide), hs]
    rfl
  · intro hheld hstream
    rw [settle_of_idle hheld hstream] at hs
    injection hs with hs
    exact hs.symm

/-- Settles O60: each access by its offset, or refused before it has one. -/
theorem hostWritesReachOnlyTheirRegister : Obligations.HostWritesReachOnlyTheirRegister := by
  intro s v hp
  refine ⟨?_, fun k h2 hk => ?_, fun addr width h => ⟨?_, ?_⟩⟩
  · simp only [hostWrite, windowOffset_windowAddr hp (k := 0) (by decide)]
    rfl
  · simp only [hostWrite, windowOffset_windowAddr hp hk]
    rw [if_neg (by omega), if_neg (by omega)]
  · simp only [hostWrite, windowOffset_refused h]
  · simp only [hostRead, windowOffset_refused h]

end Sys2Proof.Machine
end
